-- ==== Sys2Proof/Word.lean ====
section
/-! DEFINITION. The machine's words: the widths of spec/00_scope.md R5 (AW, IW, PCW) and the operand fields of
spec/30_encoding.md R102. All values are unsigned (R6). -/

namespace Sys2Proof

/-- A 4-bit value: accumulator, scratchpad register, RAM, status and port cell (R5 `AW`, `CELLW`; R6). -/
abbrev Nibble := BitVec 4

/-- An 8-bit value: a ROM cell, an instruction byte, the command register (R5 `IW`, `CMDW`). -/
abbrev Byte := BitVec 8

/-- A 12-bit ROM address (R5 `PCW`). -/
abbrev Addr := BitVec 12

/-- A scratchpad register number, 0 to 15 (R102 field `r`). -/
abbrev RegNo := BitVec 4

/-- A register pair number, 0 to 7 (R102 field `p`). -/
abbrev PairNo := BitVec 3

end Sys2Proof
end

