-- ==== Sys2Proof/Config.lean ====
section
/-! DEFINITION. What is fixed for the machine: the sizes of spec/00_scope.md R5. The three parameters that R5 names and the
spec's rules give a value (`PAGE_OF_CM`, `COST`, `SUB_RULE`) stand in Machine/Operands.lean, Machine/Fetch.lean and
Machine/Flags.lean under the names `pageOfCm`, `cost` and `subRule`. No result of any instruction is left undefined by the
spec, so there is no free value here. -/

namespace Sys2Proof.Config

/-- `ROMSIZE`: ROM cells (R5, D10). -/
def romSize : Nat := 4096

/-- `NBANKS`: banks of RAM, status and port cells (R5, D21). -/
def nBanks : Nat := 8

/-- `NGROUP`: register groups in a bank (R5). -/
def nGroup : Nat := 4

/-- `NCHAR`: characters in a group (R5). -/
def nChar : Nat := 16

/-- `NSTATUS`: status characters in a group (R5). -/
def nStatus : Nat := 4

/-- `NREG`: scratchpad registers (R5). -/
def nReg : Nat := 16

/-- `NPAIR`: register pairs (R5). -/
def nPair : Nat := 8

/-- `NLEVEL`: slots of the program-counter stack (R5). -/
def nLevel : Nat := 4

/-- Cells of the RAM space: 8 × 4 × 16 (20_memory.md R60). -/
def ramCells : Nat := nBanks * nGroup * nChar

/-- Cells of the STATUS space: 8 × 4 × 4 (R60). -/
def statusCells : Nat := nBanks * nGroup * nStatus

/-- The two readings of the source's subtract formula that `SUB_RULE` ranges over (R5; 91_not_in_source.md N9). -/
inductive SubRule where
  | complementAdd
  | direct
deriving DecidableEq, Repr

end Sys2Proof.Config
end

