-- ==== Sys2Proof/Machine/State.lean ====
section
/-! DEFINITION. The architectural state of spec/10_state.md R20 as plain data, its value after reset (R41), and the reasons a
step could stop (none does). -/

namespace Sys2Proof.Machine

/-- The kinds of diagnostic that can arise (60_exceptions.md R261, codes 1 to 3). -/
inductive DiagKind where
  | stackOverflow
  | stackUnderflow
  | unimplementedOpcode
deriving DecidableEq, Repr

/-- A diagnostic record `(kind, pc, op)` (R267): `pc` is the address of the offending instruction's first byte. -/
structure Diagnostic where
  kind : DiagKind
  pc : Addr
  op : Byte
deriving DecidableEq, Repr

/-- The three sticky error bits `ERR.SO`, `ERR.SU`, `ERR.UN` (10_state.md R37). -/
structure Err where
  so : Bool
  su : Bool
  un : Bool
deriving DecidableEq, Repr

/-- The scheduler state `SCHED` (R39). -/
inductive Sched where
  | stopped
  | steppingOnce
  | animating
  | running
deriving DecidableEq, Repr

/-- The cells of one address space (20_memory.md R60) as pairs of an address and a value, kept in the canonical form
`Cells.wf` of Machine/Memory.lean. `Cells 8` is a list of `Host.Cell`. -/
abbrev Cells (w : Nat) := List (Nat × BitVec w)

/-- All the state of R20, one field a row, and last the model's own field `diag` (log 10). -/
structure State where
  /-- `A`, the accumulator (R21). -/
  a : Nibble
  /-- `C`, the carry flag (R23). -/
  c : Bool
  /-- `T`, the test flag (R24). -/
  t : Bool
  /-- `TM`, the test-mode bit (R25). -/
  tm : Bool
  /-- `x[0..15]`, the scratchpad registers (R22). -/
  x : Vector Nibble 16
  /-- `PCS[0..3]`; slot 0 is the active program counter (R26). -/
  pcs : Vector Addr 4
  /-- `SP`, the number of return addresses held (R28). -/
  sp : BitVec 2
  /-- `CMD`, the command register (R31). -/
  cmd : Byte
  /-- `CM`, the command line register (R32). -/
  cm : Nibble
  /-- `ROM[0..4095]` (R36). -/
  rom : Cells 8
  /-- `RAM[bank][group][char]` (R33), at the flat index `ramIndex`. -/
  ram : Cells 4
  /-- `STATUS[bank][group][i]` (R34), at the flat index `statusIndex`. -/
  status : Cells 4
  /-- `PORT[bank]` (R35). -/
  port : Cells 4
  /-- `ERR` (R37). -/
  err : Err
  /-- `CYC`, the cycle counter, unbounded (R38). -/
  cyc : Nat
  /-- `SCHED` (R39). -/
  sched : Sched
  /-- `ACTIVE` (R40). -/
  active : Bool
  /-- The model's own field, read by no instruction: the diagnostic that the last `ExecuteOne` handed back
  (50_scheduler_and_host.md R221, 60_exceptions.md R262). DESIGN CHOICE, log 10. -/
  diag : Option Diagnostic
deriving DecidableEq, Repr

/-- The state after the power-on reset (R41, 70_reset_and_hazards.md R300, R303): everything 0, `SCHED` stopped, ROM at
`ROM_INIT` (every cell 0x00, so nothing is listed). -/
def State.reset : State where
  a := 0
  c := false
  t := false
  tm := false
  x := Vector.replicate 16 0
  pcs := Vector.replicate 4 0
  sp := 0
  cmd := 0
  cm := 0
  rom := []
  ram := []
  status := []
  port := []
  err := ⟨false, false, false⟩
  cyc := 0
  sched := .stopped
  active := false
  diag := none

/-- Reasons the machine could stop with a fault. -/
inductive Fault where
  /-- `AddressOutOfRange`, the source's fourth error kind (60_exceptions.md R266). Raised by nothing: every index is masked to
  its array (20_memory.md R69), so no step produces it. Safe. -/
  | addressOutOfRange
deriving DecidableEq, Repr

/-- Reasons for an instruction without a meaning. -/
inductive Refusal where
  /-- An instruction of the opcode table whose meaning is not written. Raised by an arm of `exec` alone; at present by none.
  Safe. -/
  | notModelled (mnemonic : String)
deriving DecidableEq, Repr

/-- What an instruction or a step answers. -/
abbrev Result := Host.Outcome State Fault Refusal

end Sys2Proof.Machine
end

