-- ==== Sys2Proof/Machine/Memory.lean ====
section
/-! DEFINITION. The cells of an address space (spec/20_memory.md R60): reading and writing one cell, the canonical form, and
the flat index of a RAM, STATUS or PORT cell. -/

namespace Sys2Proof.Machine

/-- What a cell that no list entry names reads as: 0, the reset contents of RAM, STATUS and PORT and the power-on contents
of ROM (10_state.md R41). -/
def unlisted (w : Nat) : BitVec w := 0

/-- One cell; no side effect (R64, R72). -/
def Cells.read {w : Nat} (m : Cells w) (a : Nat) : BitVec w :=
  match m with
  | [] => unlisted w
  | (b, v) :: rest => if a = b then v else Cells.read rest a

/-- Puts an entry before the first entry with a greater address. -/
def Cells.insert {w : Nat} (m : Cells w) (a : Nat) (v : BitVec w) : Cells w :=
  match m with
  | [] => [(a, v)]
  | (b, u) :: rest => if a < b then (a, v) :: (b, u) :: rest else (b, u) :: Cells.insert rest a v

/-- The cells without an entry for `a`. -/
def Cells.erase {w : Nat} (m : Cells w) (a : Nat) : Cells w := m.filter (fun e => e.1 != a)

/-- Writes one cell and nothing else (R64, R65). Writing what an unlisted cell reads as leaves no entry. -/
def Cells.write {w : Nat} (m : Cells w) (a : Nat) (v : BitVec w) : Cells w :=
  if v = unlisted w then m.erase a else (m.erase a).insert a v

/-- Addresses strictly rising from `low`, below `size`, and no entry equal to what an unlisted cell reads as. -/
def Cells.wfFrom {w : Nat} (size low : Nat) : Cells w → Bool
  | [] => true
  | (a, v) :: rest => decide (low ≤ a) && decide (a < size) && decide (v ≠ unlisted w) && Cells.wfFrom size (a + 1) rest

/-- The canonical form of a space of `size` cells. -/
def Cells.wf {w : Nat} (size : Nat) (m : Cells w) : Bool := Cells.wfFrom size 0 m

/-- The flat index of `RAM[bank][group][char]` (R60): 8 × 4 × 16 cells. -/
def ramIndex (bank : BitVec 3) (group : BitVec 2) (char : Nibble) : Nat := (bank ++ group ++ char).toNat

/-- The flat index of `STATUS[bank][group][i]` (R60): 8 × 4 × 4 cells. -/
def statusIndex (bank : BitVec 3) (group : BitVec 2) (i : BitVec 2) : Nat := (bank ++ group ++ i).toNat

/-- All four spaces of R60 are in canonical form. -/
def State.memoryWf (s : State) : Bool :=
  Cells.wf Config.romSize s.rom && Cells.wf Config.ramCells s.ram && Cells.wf Config.statusCells s.status
    && Cells.wf Config.nBanks s.port

end Sys2Proof.Machine
end

