-- ==== Sys2Proof/Machine/Ops.lean ====
section
/-! DEFINITION. The named operations on the state: the register file and the program-counter stack of spec/10_state.md, the
memory accessors of spec/20_memory.md, raising a diagnostic (spec/60_exceptions.md R262) and the reset operation
(spec/70_reset_and_hazards.md R300). -/

namespace Sys2Proof.Machine

/-! Register file. -/

/-- Writes `A`; the carry is not touched (R21). -/
def State.setA (s : State) (v : Nibble) : State := { s with a := v }

/-- Assigns `C` (R23). -/
def State.setC (s : State) (v : Bool) : State := { s with c := v }

/-- `T`, written by the host only (R24). -/
def State.setT (s : State) (v : Bool) : State := { s with t := v }

/-- `TM`, written by the host only (R25). -/
def State.setTm (s : State) (v : Bool) : State := { s with tm := v }

/-- `x[r]` (R22). -/
def State.reg (s : State) (r : RegNo) : Nibble := s.x[r.toNat]'r.isLt

/-- `x[r] <- v` (R22). -/
def State.setReg (s : State) (r : RegNo) (v : Nibble) : State := { s with x := s.x.set r.toNat v r.isLt }

/-- The even register `2p` of pair `p`, the pair's high nibble (R22). -/
def evenReg (p : PairNo) : RegNo := p ++ 0#1

/-- The odd register `2p + 1` of pair `p`, the pair's low nibble (R22). -/
def oddReg (p : PairNo) : RegNo := p ++ 1#1

/-- `P[p] = x[2p] ‖ x[2p+1]` (R22). -/
def State.pair (s : State) (p : PairNo) : Byte := s.reg (evenReg p) ++ s.reg (oddReg p)

/-- `P[p] <- v`: `x[2p] <- v[7:4]; x[2p+1] <- v[3:0]` (R22). -/
def State.setPair (s : State) (p : PairNo) (v : Byte) : State :=
  (s.setReg (evenReg p) (v.extractLsb' 4 4)).setReg (oddReg p) (v.extractLsb' 0 4)

/-- `exchange(reg)`: accumulator and register swap in one step (R44). -/
def State.exchange (s : State) (r : RegNo) : State := (s.setA (s.reg r)).setReg r s.a

/-! Program-counter stack. -/

/-- `PCS[0]`, the active program counter (R26). -/
def State.pc (s : State) : Addr := s.pcs[0]

/-- `AMASK`: `0x0FF` in test mode, else `0xFFF` (00_scope.md R8, R27). -/
def State.amask (s : State) : Addr := if s.tm then 0x0FF else 0xFFF

/-- `pc <- t`: `PCS[0] <- t & AMASK` (R27). -/
def State.jump (s : State) (target : Addr) : State := { s with pcs := s.pcs.set 0 (target &&& s.amask) }

/-- `Advance(n)`: `PCS[0] <- (PCS[0] + n) & AMASK` (R27). -/
def State.advance (s : State) (n : Addr) : State := s.jump (s.pc + n)

/-- The push of R29 when the stack has room: `target` becomes active, `ret` the newest return address. -/
def State.push (s : State) (target ret : Addr) : State :=
  { s with pcs := #v[target &&& s.amask, ret, s.pcs[1], s.pcs[2]], sp := s.sp + 1 }

/-- The pop of R30 when the stack holds a return address: unmasked copy, the vacated slot becomes 0. -/
def State.pop (s : State) : State :=
  { s with pcs := #v[s.pcs[1], s.pcs[2], s.pcs[3], 0], sp := s.sp - 1 }

/-- `SP = 3`: no room for a call (R28, R29). -/
def State.stackFull (s : State) : Bool := s.sp == 3

/-- `SP = 0`: nothing to return to (R28, R30). -/
def State.stackEmpty (s : State) : Bool := s.sp == 0

/-! Memory. -/

/-- `CMD <- v`, stored raw (R31). -/
def State.setCmd (s : State) (v : Byte) : State := { s with cmd := v }

/-- `CM <- v` (R32). -/
def State.setCm (s : State) (v : Nibble) : State := { s with cm := v }

/-- `RomRead(a) = ROM[a & AMASK]` (20_memory.md R62). An address computed with a carry out of bit 11 is the same address:
`AMASK` has 12 bits. -/
def State.romRead (s : State) (a : Addr) : Byte := s.rom.read (a &&& s.amask).toNat

/-- Writes one ROM cell: the host's loader only (R36). -/
def State.writeRom (s : State) (a : Addr) (v : Byte) : State := { s with rom := s.rom.write a.toNat v }

/-- `ReadChar(bank, group, char)` (R64). -/
def State.readChar (s : State) (bank : BitVec 3) (group : BitVec 2) (char : Nibble) : Nibble :=
  s.ram.read (ramIndex bank group char)

/-- `WriteChar(bank, group, char, v)` (R64). -/
def State.writeChar (s : State) (bank : BitVec 3) (group : BitVec 2) (char : Nibble) (v : Nibble) : State :=
  { s with ram := s.ram.write (ramIndex bank group char) v }

/-- `ReadStatus(bank, group, i)` (R64). -/
def State.readStatus (s : State) (bank : BitVec 3) (group i : BitVec 2) : Nibble :=
  s.status.read (statusIndex bank group i)

/-- `WriteStatus(bank, group, i, v)` (R64). -/
def State.writeStatus (s : State) (bank : BitVec 3) (group i : BitVec 2) (v : Nibble) : State :=
  { s with status := s.status.write (statusIndex bank group i) v }

/-- `PORT[bank]` as the latch holds it (10_state.md R35). -/
def State.portLatch (s : State) (bank : BitVec 3) : Nibble := s.port.read bank.toNat

/-- `ReadPort(bank)`: in test mode the latch of bank 1, whatever bank is asked (R67). -/
def State.readPort (s : State) (bank : BitVec 3) : Nibble := s.portLatch (if s.tm then 1 else bank)

/-- `WritePort(bank, v)`; no effect on `T` (R65). -/
def State.writePort (s : State) (bank : BitVec 3) (v : Nibble) : State := { s with port := s.port.write bank.toNat v }

/-! Diagnostics. Raising one is all the "trap entry" this machine has (60_exceptions.md R271): nothing is saved, no mode
changes, control goes nowhere, and there is no return (R273). -/

/-- The spec's reference code of a kind (R261). -/
def DiagKind.code : DiagKind → Nat
  | .stackOverflow => 1
  | .stackUnderflow => 2
  | .unimplementedOpcode => 3

/-- The sticky bit of a kind (R261). -/
def Err.bit (e : Err) : DiagKind → Bool
  | .stackOverflow => e.so
  | .stackUnderflow => e.su
  | .unimplementedOpcode => e.un

/-- Sets the sticky bit of a kind (R262). -/
def Err.record (e : Err) : DiagKind → Err
  | .stackOverflow => { e with so := true }
  | .stackUnderflow => { e with su := true }
  | .unimplementedOpcode => { e with un := true }

/-- `raise K(pc, op)`: set the sticky bit of `K` and make `(K, pc, op)` the diagnostic that `ExecuteOne` returns (R262). -/
def State.raise (s : State) (k : DiagKind) (pc : Addr) (op : Byte) : State :=
  { s with err := s.err.record k, diag := some ⟨k, pc, op⟩ }

/-- No diagnostic raised yet: the start of `ExecuteOne` (50_scheduler_and_host.md R221). -/
def State.clearDiag (s : State) : State := { s with diag := none }

/-! Bookkeeping. -/

/-- `SCHED <- v` (10_state.md R39). -/
def State.setSched (s : State) (v : Sched) : State := { s with sched := v }

/-- The end of `ExecuteOne`: `CYC <- CYC + cost; ACTIVE <- 1` (R38, R40, 50_scheduler_and_host.md R221). -/
def State.retire (s : State) (cost : Nat) : State := { s with cyc := s.cyc + cost, active := true }

/-- The reset operation: every piece of state at its reset value but ROM, which is kept (70_reset_and_hazards.md R300,
R304). -/
def State.resetOp (s : State) : State := { State.reset with rom := s.rom }

end Sys2Proof.Machine
end

