-- ==== Sys2Proof/Machine/Operands.lean ====
section
/-! DEFINITION. How operands and addresses are built: the in-page, 12-bit and indirect ROM addresses of
spec/30_encoding.md R103, the JCN condition of R108, and the address decoder of spec/20_memory.md R66. -/

namespace Sys2Proof.Machine

/-- `(pc & 0xF00) | b`: an address in the page of the instruction's own first byte (R103, 40_control_flow.md R140 b). -/
def inPage (pc : Addr) (b : Byte) : Addr := (pc &&& 0xF00) ||| b.setWidth 12

/-- `(h << 8) | l`: a full ROM address from page and low byte (R103). -/
def fullAddr (h : Nibble) (l : Byte) : Addr := h ++ l

/-- Whether JCN jumps: the selected conditions ORed, then the one invert bit (R108, R141). -/
def jcnTaken (c : Nibble) (s : State) : Bool :=
  let cond := (c.getLsbD 2 && s.a == 0) || (c.getLsbD 1 && s.c) || (c.getLsbD 0 && s.t)
  cond != c.getLsbD 3

/-- A cell of the data memory as the address decoder names it (R66). -/
structure CellAddr where
  bank : BitVec 3
  group : BitVec 2
  char : Nibble
deriving DecidableEq, Repr

/-- `sel = 1 << CMD[7:6]`, the one-of-four decode of the command's two high bits (R66). -/
def bankLine (n : BitVec 2) : Nibble := 1#4 <<< n.toNat

/-- The index of the set bit of a one-hot nibble: `0001 -> 0`, `0010 -> 1`, `0100 -> 2`, `1000 -> 3` (R66). -/
def lineIndex (sel : Nibble) : BitVec 2 :=
  if sel.getLsbD 0 then 0 else if sel.getLsbD 1 then 1 else if sel.getLsbD 2 then 2 else 3

/-- `PAGE_OF_CM(cm) = cm[3]` (R66, 00_scope.md R5). -/
def pageOfCm (cm : Nibble) : Bool := cm.getLsbD 3

/-- `bank3 = (page << 2) | low` (R66). -/
def fullBank (cmd : Byte) (cm : Nibble) : BitVec 3 :=
  BitVec.ofBool (pageOfCm cm) ++ lineIndex (bankLine (cmd.extractLsb' 6 2))

/-- `Resolve()`: bank, group and character from `CMD`, `CM` and `TM`; total, no side effect (R66). -/
def State.resolve (s : State) : CellAddr where
  bank := if s.tm then fullBank s.cmd s.cm &&& 1 else fullBank s.cmd s.cm
  group := s.cmd.extractLsb' 4 2
  char := s.cmd.extractLsb' 0 4

/-- `KBPTAB` (44_accumulator.md R202). -/
def kbpTable (a : Nibble) : Nibble :=
  match a.toNat with
  | 0 => 0
  | 1 => 1
  | 2 => 2
  | 4 => 3
  | 8 => 4
  | _ => 15

/-- `DCLTAB`, of the low three bits of the accumulator (44_accumulator.md R203). -/
def dclTable (n : BitVec 3) : Nibble :=
  match n.toNat with
  | 0 => 1
  | 1 => 2
  | 2 => 4
  | 3 => 3
  | 4 => 8
  | 5 => 10
  | 6 => 12
  | _ => 14

end Sys2Proof.Machine
end

