-- ==== Sys2Proof/Machine/Flags.lean ====
section
/-! DEFINITION. Results with their carry: an exact natural-number sum `t`, narrowed to `t[3:0]` for the accumulator and
`t[4]` for the carry (spec/42_add_subtract.md R160). -/

namespace Sys2Proof.Machine

/-- `A <- t[3:0]; C <- t[4]` (R160 b): accumulator value and carry. -/
def narrow (t : Nat) : Nibble × Bool := (BitVec.ofNat 4 t, t.testBit 4)

/-- ADD: `t = A + x[r] + C` (R161). -/
def addWithCarry (a x : Nibble) (c : Bool) : Nibble × Bool := narrow (a.toNat + x.toNat + c.toNat)

/-- `SUB_RULE`, the reading of the subtract formula that the spec fixes (R160 c, 00_scope.md R5). -/
def subRule : Config.SubRule := .complementAdd

/-- SUB under a reading of the formula: `t = A + (15 - x[r]) + (1 - C)` (R162), or the direct reading of
91_not_in_source.md N9 (b), `d = A - (x[r] + (1 - C))` with the carry set on underflow. -/
def subtractBy (rule : Config.SubRule) (a x : Nibble) (c : Bool) : Nibble × Bool :=
  match rule with
  | .complementAdd => narrow (a.toNat + (15 - x.toNat) + (1 - c.toNat))
  | .direct => (a - x - BitVec.ofNat 4 (1 - c.toNat), decide (a.toNat < x.toNat + (1 - c.toNat)))

/-- SUB (R162). -/
def subWithBorrow (a x : Nibble) (c : Bool) : Nibble × Bool := subtractBy subRule a x c

/-- IAC: `t = A + 1`; the old carry does not enter (44_accumulator.md R192). -/
def incrementAcc (a : Nibble) : Nibble × Bool := narrow (a.toNat + 1)

/-- DAC under a reading of the subtraction: `t = A + 15` (R198), or carry set on underflow (N9). -/
def decrementBy (rule : Config.SubRule) (a : Nibble) : Nibble × Bool :=
  match rule with
  | .complementAdd => narrow (a.toNat + 15)
  | .direct => (a - 1, decide (a = 0))

/-- DAC; the old carry does not enter (R198). -/
def decrementAcc (a : Nibble) : Nibble × Bool := decrementBy subRule a

/-- DAA: add 6 when `A > 9` or `C = 1` and recompute the carry, else nothing (R201). -/
def decimalAdjust (a : Nibble) (c : Bool) : Nibble × Bool :=
  if 9 < a.toNat ∨ c = true then narrow (a.toNat + 6) else (a, c)

/-- RAL: `t = (A << 1) | C` (R195). -/
def rotateLeft (a : Nibble) (c : Bool) : Nibble × Bool := narrow ((a.toNat <<< 1) ||| c.toNat)

/-- RAR: `A <- (C << 3) | (A >> 1)`, `C <- A[0]` (R196). -/
def rotateRight (a : Nibble) (c : Bool) : Nibble × Bool :=
  (BitVec.ofNat 4 ((c.toNat <<< 3) ||| (a.toNat >>> 1)), a.getLsbD 0)

/-- Stores a result and its carry. -/
def State.setAC (s : State) (r : Nibble × Bool) : State := (s.setA r.1).setC r.2

end Sys2Proof.Machine
end

