-- ==== Sys2Proof/Machine/Accumulator.lean ====
section
/-! DEFINITION. The accumulator and carry group of spec/44_accumulator.md. Each is one byte and ends with `Advance(1)`; CMA,
KBP and DCL leave `C` alone (R190). -/

namespace Sys2Proof.Machine

/-- CLB (R191). -/
def execClb (s : State) : Result := .next ((s.setAC (0, false)).advance 1)

/-- IAC (R192). -/
def execIac (s : State) : Result := .next ((s.setAC (incrementAcc s.a)).advance 1)

/-- CMC (R193). -/
def execCmc (s : State) : Result := .next ((s.setC (!s.c)).advance 1)

/-- CMA: `A <- 15 - A` (R194). -/
def execCma (s : State) : Result := .next ((s.setA (~~~s.a)).advance 1)

/-- RAL (R195). -/
def execRal (s : State) : Result := .next ((s.setAC (rotateLeft s.a s.c)).advance 1)

/-- RAR (R196). -/
def execRar (s : State) : Result := .next ((s.setAC (rotateRight s.a s.c)).advance 1)

/-- TCC: `A <- C`, `C <- 0` (R197). -/
def execTcc (s : State) : Result := .next ((s.setAC (BitVec.ofNat 4 s.c.toNat, false)).advance 1)

/-- DAC (R198). -/
def execDac (s : State) : Result := .next ((s.setAC (decrementAcc s.a)).advance 1)

/-- TCS: `A <- 9 + C`, `C <- 0` (R199). -/
def execTcs (s : State) : Result := .next ((s.setAC (BitVec.ofNat 4 (9 + s.c.toNat), false)).advance 1)

/-- STC (R200). -/
def execStc (s : State) : Result := .next ((s.setC true).advance 1)

/-- DAA (R201). -/
def execDaa (s : State) : Result := .next ((s.setAC (decimalAdjust s.a s.c)).advance 1)

/-- KBP (R202). -/
def execKbp (s : State) : Result := .next ((s.setA (kbpTable s.a)).advance 1)

/-- DCL: `CM <- DCLTAB(A[2:0])` (R203). -/
def execDcl (s : State) : Result := .next ((s.setCm (dclTable (s.a.extractLsb' 0 3))).advance 1)

end Sys2Proof.Machine
end

