-- ==== Sys2Proof/Machine/AddSubtract.lean ====
section
/-! DEFINITION. ADD and SUB of spec/42_add_subtract.md. -/

namespace Sys2Proof.Machine

/-- ADD (R161). -/
def execAdd (r : RegNo) (s : State) : Result :=
  .next ((s.setAC (addWithCarry s.a (s.reg r) s.c)).advance 1)

/-- SUB (R162). -/
def execSub (r : RegNo) (s : State) : Result :=
  .next ((s.setAC (subWithBorrow s.a (s.reg r) s.c)).advance 1)

end Sys2Proof.Machine
end

