-- ==== Sys2Proof/Machine/Requests.lean ====
section
/-! DEFINITION. What the host can ask of the block: the ports of spec/50_scheduler_and_host.md R230, and the cells that
`peek` and `poke` name (R232, R233). A request is served between instructions (R229). -/

namespace Sys2Proof.Machine

/-- A cell of the state, as the host names it (R232). Indices are plain numbers: the check that they lie inside their array
is `CellName.inRange`. -/
inductive CellName where
  | a
  | c
  | t
  | tm
  | x (i : Nat)
  | pair (p : Nat)
  | pcs (i : Nat)
  | sp
  | cmd
  | cm
  | ram (bank group char : Nat)
  | status (bank group i : Nat)
  | port (bank : Nat)
  | rom (addr : Nat)
  | err
  | cyc
  | sched
  | active
deriving DecidableEq, Repr

/-- The requests of R230. `bp` is a breakpoint set, `budget` a cycle budget, both inputs of one request (R234). -/
inductive Request where
  | reset
  | step
  | animate
  | tick (bp : List Addr)
  | run (budget : Nat) (bp : List Addr)
  | testIn (v : Nat)
  | testModeIn (v : Nat)
  | romLoad (addr byte : Nat)
  | peek (cell : CellName)
  | poke (cell : CellName) (v : Nat)
  | disasm (op b2 : Byte)
deriving DecidableEq, Repr

/-- The indices a cell name carries lie inside their arrays (10_state.md R20, R233). -/
def CellName.inRange : CellName → Bool
  | .x i => decide (i < Config.nReg)
  | .pair p => decide (p < Config.nPair)
  | .pcs i => decide (i < Config.nLevel)
  | .ram b g ch => decide (b < Config.nBanks) && decide (g < Config.nGroup) && decide (ch < Config.nChar)
  | .status b g i => decide (b < Config.nBanks) && decide (g < Config.nGroup) && decide (i < Config.nStatus)
  | .port b => decide (b < Config.nBanks)
  | .rom ad => decide (ad < Config.romSize)
  | .a | .c | .t | .tm | .sp | .cmd | .cm | .err | .cyc | .sched | .active => true

/-- The cells that have a setter (R233): not `T` and `TM` (their own ports), `SP`, `CMD`, `CM`, `ERR`, `CYC`, `SCHED`,
`ACTIVE`, nor ROM (the loader's). -/
def CellName.writable : CellName → Bool
  | .a | .c | .x _ | .pair _ | .pcs _ | .ram _ _ _ | .status _ _ _ | .port _ => true
  | .t | .tm | .sp | .cmd | .cm | .rom _ | .err | .cyc | .sched | .active => false

end Sys2Proof.Machine
end

