-- ==== Sys2Proof/Syntax.lean ====
section
/-! DEFINITION. The instruction set: one constructor for each row of spec/opcode_table.json, the 39 instructions of
spec/30_encoding.md R104 and the nine rows of unimplemented bytes (R109, R115). Operand fields are those of R102. -/

namespace Sys2Proof

inductive Instr where
  /-- JCN, jump conditional: condition nibble, address within the page (R141). -/
  | jcn (c : Nibble) (a : Byte)
  /-- FIM, fetch immediate into a register pair (R151). -/
  | fim (p : PairNo) (d : Byte)
  /-- SRC, send register control (R152). -/
  | src (p : PairNo)
  /-- FIN, fetch indirect (R153). -/
  | fin (p : PairNo)
  /-- JIN, jump indirect (R142). -/
  | jin (p : PairNo)
  /-- JUN, jump unconditional: page, low address byte (R143). -/
  | jun (h : Nibble) (l : Byte)
  /-- JMS, jump to subroutine: page, low address byte (R144). -/
  | jms (h : Nibble) (l : Byte)
  /-- INC, increment register (R154). -/
  | inc (r : RegNo)
  /-- ISZ, increment register and branch on zero (R145). -/
  | isz (r : RegNo) (a : Byte)
  /-- ADD, add register with carry (R161). -/
  | add (r : RegNo)
  /-- SUB, subtract register with borrow (R162). -/
  | sub (r : RegNo)
  /-- LD, load accumulator from register (R155). -/
  | ld (r : RegNo)
  /-- XCH, exchange accumulator and register (R156). -/
  | xch (r : RegNo)
  /-- BBL, branch back and load (R146). -/
  | bbl (d : Nibble)
  /-- LDM, load accumulator immediate (R157). -/
  | ldm (d : Nibble)
  /-- WRM, write RAM character (R171). -/
  | wrm
  /-- WMP, write RAM port (R172). -/
  | wmp
  /-- WR0, write status character 0 (R173). -/
  | wr0
  /-- WR1, write status character 1 (R174). -/
  | wr1
  /-- WR2, write status character 2 (R175). -/
  | wr2
  /-- WR3, write status character 3 (R176). -/
  | wr3
  /-- RDM, read RAM character (R177). -/
  | rdm
  /-- RD0, read status character 0 (R178). -/
  | rd0
  /-- RD1, read status character 1 (R179). -/
  | rd1
  /-- RD2, read status character 2 (R180). -/
  | rd2
  /-- RD3, read status character 3 (R181). -/
  | rd3
  /-- CLB, clear both (R191). -/
  | clb
  /-- IAC, increment accumulator (R192). -/
  | iac
  /-- CMC, complement carry (R193). -/
  | cmc
  /-- CMA, complement accumulator (R194). -/
  | cma
  /-- RAL, rotate left through carry (R195). -/
  | ral
  /-- RAR, rotate right through carry (R196). -/
  | rar
  /-- TCC, transfer carry and clear (R197). -/
  | tcc
  /-- DAC, decrement accumulator (R198). -/
  | dac
  /-- TCS, transfer carry subtract (R199). -/
  | tcs
  /-- STC, set carry (R200). -/
  | stc
  /-- DAA, decimal adjust accumulator (R201). -/
  | daa
  /-- KBP, keyboard process (R202). -/
  | kbp
  /-- DCL, designate command line (R203). -/
  | dcl
  /-- The unimplemented bytes 0x00 to 0x0F; the low nibble is reported only (R210, R211). -/
  | unimpl0x (x : Nibble)
  /-- The unimplemented byte 0xE2 (R211). -/
  | unimplE2
  /-- The unimplemented byte 0xE3 (R211). -/
  | unimplE3
  /-- The unimplemented byte 0xE8 (R211). -/
  | unimplE8
  /-- The unimplemented byte 0xEA (R211). -/
  | unimplEA
  /-- The unimplemented byte 0xEB (R211). -/
  | unimplEB
  /-- The unimplemented byte 0xF1 (R211). -/
  | unimplF1
  /-- The unimplemented byte 0xFE (R211). -/
  | unimplFE
  /-- The unimplemented byte 0xFF (R211). -/
  | unimplFF
deriving DecidableEq, Repr

end Sys2Proof
end

