-- ==== Sys2Proof/WellFormed.lean ====
section
/-! DEFINITION. Well-formedness of what is handed to the machine: instructions and host requests. -/

namespace Sys2Proof

/-- An instruction of `Instr` needs no check: each operand's type is exactly the field width of spec/30_encoding.md R102 (a
register number is a `BitVec 4`, a pair number a `BitVec 3`, a page a `BitVec 4`, a second byte a `BitVec 8`), and every
value of every field is legal (R108, R110). -/
def Instr.WellFormed (_ : Instr) : Prop := True

/-- A host request is well formed when the cell it names exists and, for `poke`, has a setter
(spec/50_scheduler_and_host.md R233, 93_implementation_defined.md U9). -/
def Machine.Request.wellFormed : Machine.Request → Bool
  | .peek cell => cell.inRange
  | .poke cell _ => cell.inRange && cell.writable
  | .reset | .step | .animate | .tick _ | .run _ _ | .testIn _ | .testModeIn _ | .romLoad _ _ | .disasm _ _ => true

end Sys2Proof
end

