-- ==== Sys2Proof/Decode.lean ====
section
/-! DEFINITION. Decoding and encoding: the opcode map of spec/30_encoding.md R105 to R107 and R109, the lengths of R111, and
the machine-readable rows of spec/opcode_table.json (R115). The byte values are the ones those rules give; the spec marks
them as its decision D1 (log 1). Decoding depends on no state (R112). -/

namespace Sys2Proof

/-- `v[7:4]`: the group of an opcode byte. -/
def highNibble (v : Byte) : Nibble := v.extractLsb' 4 4

/-- `v[3:0]`: register number, immediate, condition or page field (R102). -/
def lowNibble (v : Byte) : Nibble := v.extractLsb' 0 4

/-- `v[3:1]`: pair field (R102). -/
def pairField (v : Byte) : PairNo := v.extractLsb' 1 3

/-- `v[0]`: the sub-opcode bit `s` of groups 2 and 3 (R102). -/
def subOpcode (v : Byte) : Bool := v.getLsbD 0

/-- Group `0xE_`, the memory and port group (R106). -/
def decodeMemoryGroup (n : Nibble) : Instr :=
  match n.toNat with
  | 0x0 => .wrm
  | 0x1 => .wmp
  | 0x2 => .unimplE2
  | 0x3 => .unimplE3
  | 0x4 => .wr0
  | 0x5 => .wr1
  | 0x6 => .wr2
  | 0x7 => .wr3
  | 0x8 => .unimplE8
  | 0x9 => .rdm
  | 0xA => .unimplEA
  | 0xB => .unimplEB
  | 0xC => .rd0
  | 0xD => .rd1
  | 0xE => .rd2
  | _ => .rd3

/-- Group `0xF_`, the accumulator group (R107). -/
def decodeAccumulatorGroup (n : Nibble) : Instr :=
  match n.toNat with
  | 0x0 => .clb
  | 0x1 => .unimplF1
  | 0x2 => .iac
  | 0x3 => .cmc
  | 0x4 => .cma
  | 0x5 => .ral
  | 0x6 => .rar
  | 0x7 => .tcc
  | 0x8 => .dac
  | 0x9 => .tcs
  | 0xA => .stc
  | 0xB => .daa
  | 0xC => .kbp
  | 0xD => .dcl
  | 0xE => .unimplFE
  | _ => .unimplFF

/-- The map of R105 by the high nibble of `op`; total (R115). `b2` is the next ROM byte, used by two-byte instructions
alone. -/
def decodeOp (op b2 : Byte) : Instr :=
  match (highNibble op).toNat with
  | 0x0 => .unimpl0x (lowNibble op)
  | 0x1 => .jcn (lowNibble op) b2
  | 0x2 => if subOpcode op then .src (pairField op) else .fim (pairField op) b2
  | 0x3 => if subOpcode op then .jin (pairField op) else .fin (pairField op)
  | 0x4 => .jun (lowNibble op) b2
  | 0x5 => .jms (lowNibble op) b2
  | 0x6 => .inc (lowNibble op)
  | 0x7 => .isz (lowNibble op) b2
  | 0x8 => .add (lowNibble op)
  | 0x9 => .sub (lowNibble op)
  | 0xA => .ld (lowNibble op)
  | 0xB => .xch (lowNibble op)
  | 0xC => .bbl (lowNibble op)
  | 0xD => .ldm (lowNibble op)
  | 0xE => decodeMemoryGroup (lowNibble op)
  | _ => decodeAccumulatorGroup (lowNibble op)

/-- The length of the instruction that starts with `op`, from the opcode byte alone (R111). -/
def opLength (op : Byte) : Nat :=
  match (highNibble op).toNat with
  | 0x1 => 2
  | 0x2 => if subOpcode op then 1 else 2
  | 0x4 => 2
  | 0x5 => 2
  | 0x7 => 2
  | _ => 1

/-- Why a byte list starts no instruction: every byte value decodes (R115), so only missing bytes are rejected. -/
inductive DecodeError where
  /-- The list is empty. -/
  | noOpcodeByte
  /-- The list ends after the opcode byte of a two-byte instruction. -/
  | noOperandByte (op : Byte)
deriving DecidableEq, Repr

/-- Reads one instruction from the front of a byte list: opcode byte first, operand byte next (R100, 20_memory.md R70);
answers the instruction and the rest of the list. -/
def decode : List Byte → Except DecodeError (Instr × List Byte)
  | [] => .error .noOpcodeByte
  | op :: rest =>
    if opLength op = 2 then
      match rest with
      | [] => .error (.noOperandByte op)
      | b2 :: rest' => .ok (decodeOp op b2, rest')
    else .ok (decodeOp op 0, rest)

/-- The two bytes of a table word of `nbits` bits: bit 0 of `w` is bit 0 of the opcode byte, bits 15 to 8 are the operand
byte, and bits at and above `nbits` are 0. -/
def tableBytes (nbits w : Nat) : Byte × Byte :=
  let v := w % 2 ^ nbits
  (BitVec.ofNat 8 v, BitVec.ofNat 8 (v / 256))

/-- What `decode` reads from a word laid out as opcode_table.json numbers its bits. -/
def decodeTableWord (nbits w : Nat) : Option Instr :=
  let b := tableBytes nbits w
  match decode [b.1, b.2] with
  | .ok (i, _) => some i
  | .error _ => none

/-! The encoder, from the same tables. -/

/-- The first byte of an instruction (R105 to R107, R109). -/
def Instr.opcodeByte : Instr → Byte
  | .jcn c _ => 0x1#4 ++ c
  | .fim p _ => 0x2#4 ++ p ++ 0#1
  | .src p => 0x2#4 ++ p ++ 1#1
  | .fin p => 0x3#4 ++ p ++ 0#1
  | .jin p => 0x3#4 ++ p ++ 1#1
  | .jun h _ => 0x4#4 ++ h
  | .jms h _ => 0x5#4 ++ h
  | .inc r => 0x6#4 ++ r
  | .isz r _ => 0x7#4 ++ r
  | .add r => 0x8#4 ++ r
  | .sub r => 0x9#4 ++ r
  | .ld r => 0xA#4 ++ r
  | .xch r => 0xB#4 ++ r
  | .bbl d => 0xC#4 ++ d
  | .ldm d => 0xD#4 ++ d
  | .wrm => 0xE0
  | .wmp => 0xE1
  | .wr0 => 0xE4
  | .wr1 => 0xE5
  | .wr2 => 0xE6
  | .wr3 => 0xE7
  | .rdm => 0xE9
  | .rd0 => 0xEC
  | .rd1 => 0xED
  | .rd2 => 0xEE
  | .rd3 => 0xEF
  | .clb => 0xF0
  | .iac => 0xF2
  | .cmc => 0xF3
  | .cma => 0xF4
  | .ral => 0xF5
  | .rar => 0xF6
  | .tcc => 0xF7
  | .dac => 0xF8
  | .tcs => 0xF9
  | .stc => 0xFA
  | .daa => 0xFB
  | .kbp => 0xFC
  | .dcl => 0xFD
  | .unimpl0x x => 0x0#4 ++ x
  | .unimplE2 => 0xE2
  | .unimplE3 => 0xE3
  | .unimplE8 => 0xE8
  | .unimplEA => 0xEA
  | .unimplEB => 0xEB
  | .unimplF1 => 0xF1
  | .unimplFE => 0xFE
  | .unimplFF => 0xFF

/-- The second byte of a two-byte instruction (R101, R102). -/
def Instr.operandByte : Instr → List Byte
  | .jcn _ a => [a]
  | .fim _ d => [d]
  | .jun _ l => [l]
  | .jms _ l => [l]
  | .isz _ a => [a]
  | .src _ | .fin _ | .jin _ | .inc _ | .add _ | .sub _ | .ld _ | .xch _ | .bbl _ | .ldm _
  | .wrm | .wmp | .wr0 | .wr1 | .wr2 | .wr3 | .rdm | .rd0 | .rd1 | .rd2 | .rd3
  | .clb | .iac | .cmc | .cma | .ral | .rar | .tcc | .dac | .tcs | .stc | .daa | .kbp | .dcl
  | .unimpl0x _ | .unimplE2 | .unimplE3 | .unimplE8 | .unimplEA | .unimplEB | .unimplF1 | .unimplFE | .unimplFF => []

/-- The bytes of an instruction, in the order they stand in ROM. -/
def encode (i : Instr) : List Byte := i.opcodeByte :: i.operandByte

/-! The rows of opcode_table.json (R115), with `match`, `mask`, `length` and `cost` as the file gives them. -/

/-- One row of the opcode table. -/
structure Row where
  mnemonic : String
  pattern : Byte
  mask : Byte
  length : Nat
  cost : Nat
deriving DecidableEq, Repr

/-- Rows with an operand field in the opcode byte. -/
def rowsWithFields : List Row :=
  [ ⟨"JCN", 0x10, 0xF0, 2, 2⟩, ⟨"FIM", 0x20, 0xF1, 2, 2⟩, ⟨"SRC", 0x21, 0xF1, 1, 1⟩, ⟨"FIN", 0x30, 0xF1, 1, 2⟩,
    ⟨"JIN", 0x31, 0xF1, 1, 1⟩, ⟨"JUN", 0x40, 0xF0, 2, 2⟩, ⟨"JMS", 0x50, 0xF0, 2, 2⟩, ⟨"INC", 0x60, 0xF0, 1, 1⟩,
    ⟨"ISZ", 0x70, 0xF0, 2, 2⟩, ⟨"ADD", 0x80, 0xF0, 1, 1⟩, ⟨"SUB", 0x90, 0xF0, 1, 1⟩, ⟨"LD", 0xA0, 0xF0, 1, 1⟩,
    ⟨"XCH", 0xB0, 0xF0, 1, 1⟩, ⟨"BBL", 0xC0, 0xF0, 1, 1⟩, ⟨"LDM", 0xD0, 0xF0, 1, 1⟩ ]

/-- Rows of the memory and port group (R106). -/
def rowsMemoryGroup : List Row :=
  [ ⟨"WRM", 0xE0, 0xFF, 1, 1⟩, ⟨"WMP", 0xE1, 0xFF, 1, 1⟩, ⟨"WR0", 0xE4, 0xFF, 1, 1⟩, ⟨"WR1", 0xE5, 0xFF, 1, 1⟩,
    ⟨"WR2", 0xE6, 0xFF, 1, 1⟩, ⟨"WR3", 0xE7, 0xFF, 1, 1⟩, ⟨"RDM", 0xE9, 0xFF, 1, 1⟩, ⟨"RD0", 0xEC, 0xFF, 1, 1⟩,
    ⟨"RD1", 0xED, 0xFF, 1, 1⟩, ⟨"RD2", 0xEE, 0xFF, 1, 1⟩, ⟨"RD3", 0xEF, 0xFF, 1, 1⟩ ]

/-- Rows of the accumulator group (R107). -/
def rowsAccumulatorGroup : List Row :=
  [ ⟨"CLB", 0xF0, 0xFF, 1, 1⟩, ⟨"IAC", 0xF2, 0xFF, 1, 1⟩, ⟨"CMC", 0xF3, 0xFF, 1, 1⟩, ⟨"CMA", 0xF4, 0xFF, 1, 1⟩,
    ⟨"RAL", 0xF5, 0xFF, 1, 1⟩, ⟨"RAR", 0xF6, 0xFF, 1, 1⟩, ⟨"TCC", 0xF7, 0xFF, 1, 1⟩, ⟨"DAC", 0xF8, 0xFF, 1, 1⟩,
    ⟨"TCS", 0xF9, 0xFF, 1, 1⟩, ⟨"STC", 0xFA, 0xFF, 1, 1⟩, ⟨"DAA", 0xFB, 0xFF, 1, 1⟩, ⟨"KBP", 0xFC, 0xFF, 1, 1⟩,
    ⟨"DCL", 0xFD, 0xFF, 1, 1⟩ ]

/-- Rows of the unimplemented bytes (R109). -/
def rowsUnimplemented : List Row :=
  [ ⟨"UNIMPL_0X", 0x00, 0xF0, 1, 1⟩, ⟨"UNIMPL_E2", 0xE2, 0xFF, 1, 1⟩, ⟨"UNIMPL_E3", 0xE3, 0xFF, 1, 1⟩,
    ⟨"UNIMPL_E8", 0xE8, 0xFF, 1, 1⟩, ⟨"UNIMPL_EA", 0xEA, 0xFF, 1, 1⟩, ⟨"UNIMPL_EB", 0xEB, 0xFF, 1, 1⟩,
    ⟨"UNIMPL_F1", 0xF1, 0xFF, 1, 1⟩, ⟨"UNIMPL_FE", 0xFE, 0xFF, 1, 1⟩, ⟨"UNIMPL_FF", 0xFF, 0xFF, 1, 1⟩ ]

/-- The 48 rows of opcode_table.json. -/
def opcodeTable : List Row := rowsWithFields ++ rowsMemoryGroup ++ rowsAccumulatorGroup ++ rowsUnimplemented

/-- A row matches an opcode byte when `op & mask = match` (R115). -/
def Row.covers (r : Row) (op : Byte) : Bool := op &&& r.mask == r.pattern

/-- The row that decodes `op`: the first that covers it, which is the only one (R115). -/
def rowOf (op : Byte) : Option Row := opcodeTable.find? (·.covers op)

/-- The mnemonic of an instruction's row, as opcode_table.json spells it. -/
def Instr.mnemonic : Instr → String
  | .jcn _ _ => "JCN"
  | .fim _ _ => "FIM"
  | .src _ => "SRC"
  | .fin _ => "FIN"
  | .jin _ => "JIN"
  | .jun _ _ => "JUN"
  | .jms _ _ => "JMS"
  | .inc _ => "INC"
  | .isz _ _ => "ISZ"
  | .add _ => "ADD"
  | .sub _ => "SUB"
  | .ld _ => "LD"
  | .xch _ => "XCH"
  | .bbl _ => "BBL"
  | .ldm _ => "LDM"
  | .wrm => "WRM"
  | .wmp => "WMP"
  | .wr0 => "WR0"
  | .wr1 => "WR1"
  | .wr2 => "WR2"
  | .wr3 => "WR3"
  | .rdm => "RDM"
  | .rd0 => "RD0"
  | .rd1 => "RD1"
  | .rd2 => "RD2"
  | .rd3 => "RD3"
  | .clb => "CLB"
  | .iac => "IAC"
  | .cmc => "CMC"
  | .cma => "CMA"
  | .ral => "RAL"
  | .rar => "RAR"
  | .tcc => "TCC"
  | .dac => "DAC"
  | .tcs => "TCS"
  | .stc => "STC"
  | .daa => "DAA"
  | .kbp => "KBP"
  | .dcl => "DCL"
  | .unimpl0x _ => "UNIMPL_0X"
  | .unimplE2 => "UNIMPL_E2"
  | .unimplE3 => "UNIMPL_E3"
  | .unimplE8 => "UNIMPL_E8"
  | .unimplEA => "UNIMPL_EA"
  | .unimplEB => "UNIMPL_EB"
  | .unimplF1 => "UNIMPL_F1"
  | .unimplFE => "UNIMPL_FE"
  | .unimplFF => "UNIMPL_FF"

end Sys2Proof
end

