-- ==== Sys2Proof/Machine/ControlFlow.lean ====
section
/-! DEFINITION. The control-flow instructions of spec/40_control_flow.md: JCN, JIN, JUN, JMS, ISZ, BBL. Each writes `PCS[0]`
itself, exactly once (R140 a), and leaves `C` alone (R140 d). -/

namespace Sys2Proof.Machine

/-- JCN (R141). -/
def execJcn (c : Nibble) (a : Byte) (s : State) : Result :=
  if jcnTaken c s then .next (s.jump (inPage s.pc a)) else .next (s.advance 2)

/-- JIN (R142). -/
def execJin (p : PairNo) (s : State) : Result :=
  .next (s.jump (inPage s.pc (s.pair p)))

/-- JUN (R143). -/
def execJun (h : Nibble) (l : Byte) (s : State) : Result :=
  .next (s.jump (fullAddr h l))

/-- JMS (R144): a call, or with a full stack StackOverflow and no transfer. -/
def execJms (h : Nibble) (l : Byte) (s : State) : Result :=
  if s.stackFull then
    .next ((s.advance 2).raise .stackOverflow s.pc (Instr.opcodeByte (.jms h l)))
  else
    .next (s.push (fullAddr h l) ((s.pc + 2) &&& s.amask))

/-- ISZ (R145): branches when the incremented register IS zero (90_conflicts.md C5). -/
def execIsz (r : RegNo) (a : Byte) (s : State) : Result :=
  let v := s.reg r + 1
  let s' := s.setReg r v
  if v = 0 then .next (s'.jump (inPage s.pc a)) else .next (s'.advance 2)

/-- BBL (R146): a return that loads `A`, or with an empty stack StackUnderflow and `A` not loaded. -/
def execBbl (d : Nibble) (s : State) : Result :=
  if s.stackEmpty then
    .next ((s.advance 1).raise .stackUnderflow s.pc (Instr.opcodeByte (.bbl d)))
  else
    .next (s.pop.setA d)

end Sys2Proof.Machine
end

