-- ==== Sys2Proof/Machine/MemoryIO.lean ====
section
/-! DEFINITION. The data memory and port instructions of spec/43_memory_io.md. Each accesses one cell, chosen by
`Resolve()`, leaves `C`, `CMD` and `CM` alone and ends with `Advance(1)` (R170). -/

namespace Sys2Proof.Machine

/-- The shared form of WR0 to WR3: `STATUS[bank][group][i] <- A` (R173 to R176). -/
def State.storeStatus (s : State) (i : BitVec 2) : State :=
  (s.writeStatus s.resolve.bank s.resolve.group i s.a).advance 1

/-- The shared form of RD0 to RD3: `A <- STATUS[bank][group][i]` (R178 to R181). -/
def State.loadStatus (s : State) (i : BitVec 2) : State :=
  (s.setA (s.readStatus s.resolve.bank s.resolve.group i)).advance 1

/-- WRM (R171). -/
def execWrm (s : State) : Result :=
  .next ((s.writeChar s.resolve.bank s.resolve.group s.resolve.char s.a).advance 1)

/-- WMP (R172). -/
def execWmp (s : State) : Result :=
  .next ((s.writePort s.resolve.bank s.a).advance 1)

/-- WR0 (R173). -/
def execWr0 (s : State) : Result := .next (s.storeStatus 0)

/-- WR1 (R174). -/
def execWr1 (s : State) : Result := .next (s.storeStatus 1)

/-- WR2 (R175). -/
def execWr2 (s : State) : Result := .next (s.storeStatus 2)

/-- WR3 (R176). -/
def execWr3 (s : State) : Result := .next (s.storeStatus 3)

/-- RDM (R177). -/
def execRdm (s : State) : Result :=
  .next ((s.setA (s.readChar s.resolve.bank s.resolve.group s.resolve.char)).advance 1)

/-- RD0 (R178). -/
def execRd0 (s : State) : Result := .next (s.loadStatus 0)

/-- RD1 (R179). -/
def execRd1 (s : State) : Result := .next (s.loadStatus 1)

/-- RD2 (R180). -/
def execRd2 (s : State) : Result := .next (s.loadStatus 2)

/-- RD3 (R181). -/
def execRd3 (s : State) : Result := .next (s.loadStatus 3)

end Sys2Proof.Machine
end

