-- ==== Sys2Proof/Machine/RegisterImmediate.lean ====
section
/-! DEFINITION. The register and immediate instructions of spec/41_register_and_immediate.md: FIM, SRC, FIN, INC, LD, XCH,
LDM. None writes `C`; each ends with `Advance(length)` (R150). -/

namespace Sys2Proof.Machine

/-- FIM (R151). -/
def execFim (p : PairNo) (d : Byte) (s : State) : Result :=
  .next ((s.setPair p d).advance 2)

/-- SRC (R152). -/
def execSrc (p : PairNo) (s : State) : Result :=
  .next ((s.setCmd (s.pair p)).advance 1)

/-- FIN (R153): the address comes from pair 0 and the page of the instruction, before the destination is written. -/
def execFin (p : PairNo) (s : State) : Result :=
  .next ((s.setPair p (s.romRead (inPage s.pc (s.pair 0)))).advance 1)

/-- INC (R154). -/
def execInc (r : RegNo) (s : State) : Result :=
  .next ((s.setReg r (s.reg r + 1)).advance 1)

/-- LD (R155). -/
def execLd (r : RegNo) (s : State) : Result :=
  .next ((s.setA (s.reg r)).advance 1)

/-- XCH (R156). -/
def execXch (r : RegNo) (s : State) : Result :=
  .next ((s.exchange r).advance 1)

/-- LDM (R157). -/
def execLdm (d : Nibble) (s : State) : Result :=
  .next ((s.setA d).advance 1)

end Sys2Proof.Machine
end

