-- ==== Sys2Proof/Machine/Unimplemented.lean ====
section
/-! DEFINITION. The unimplemented-opcode handler of spec/45_unimplemented.md: fail-soft, it advances by one, sets `ERR.UN`
and reports (R210, R211, R212). -/

namespace Sys2Proof.Machine

/-- UNIMPL: `Advance(1); raise UnimplementedOpcode(pc, op)` (R210). -/
def State.unimplemented (s : State) (op : Byte) : State :=
  (s.advance 1).raise .unimplementedOpcode s.pc op

/-- The bytes 0x00 to 0x0F (R210). -/
def execUnimpl0x (x : Nibble) (s : State) : Result := .next (s.unimplemented (Instr.opcodeByte (.unimpl0x x)))

/-- The byte 0xE2 (R210). -/
def execUnimplE2 (s : State) : Result := .next (s.unimplemented (Instr.opcodeByte .unimplE2))

/-- The byte 0xE3 (R210). -/
def execUnimplE3 (s : State) : Result := .next (s.unimplemented (Instr.opcodeByte .unimplE3))

/-- The byte 0xE8 (R210). -/
def execUnimplE8 (s : State) : Result := .next (s.unimplemented (Instr.opcodeByte .unimplE8))

/-- The byte 0xEA (R210). -/
def execUnimplEA (s : State) : Result := .next (s.unimplemented (Instr.opcodeByte .unimplEA))

/-- The byte 0xEB (R210). -/
def execUnimplEB (s : State) : Result := .next (s.unimplemented (Instr.opcodeByte .unimplEB))

/-- The byte 0xF1 (R210). -/
def execUnimplF1 (s : State) : Result := .next (s.unimplemented (Instr.opcodeByte .unimplF1))

/-- The byte 0xFE (R210). -/
def execUnimplFE (s : State) : Result := .next (s.unimplemented (Instr.opcodeByte .unimplFE))

/-- The byte 0xFF (R210). -/
def execUnimplFF (s : State) : Result := .next (s.unimplemented (Instr.opcodeByte .unimplFF))

end Sys2Proof.Machine
end

