-- ==== Sys2Proof/Machine/Fetch.lean ====
section
/-! DEFINITION. Fetching an instruction and what it costs: the parts of `ExecuteOne` around the instruction's own rule
(spec/50_scheduler_and_host.md R221), and the placing of an instruction where it is fetched. -/

namespace Sys2Proof.Machine

/-- `op = RomRead(pc)` (R221). -/
def State.fetchOp (s : State) : Byte := s.romRead s.pc

/-- `b2 = RomRead(pc + 1)`, the operand byte of a two-byte instruction (20_memory.md R62, R63). -/
def State.fetchOperand (s : State) : Byte := s.romRead (s.pc + 1)

/-- The instruction at the program counter (R221; decoding is total, 30_encoding.md R115). -/
def State.fetch (s : State) : Instr := decodeOp s.fetchOp s.fetchOperand

/-- `COST(op)`, the cycle cost of an opcode byte (70_reset_and_hazards.md R320). -/
def cost (op : Byte) : Nat :=
  match (highNibble op).toNat with
  | 0x1 => 2
  | 0x2 => if subOpcode op then 1 else 2
  | 0x3 => if subOpcode op then 1 else 2
  | 0x4 => 2
  | 0x5 => 2
  | 0x7 => 2
  | _ => 1

/-- Stores two bytes in ROM where the next fetch reads its opcode byte and its operand byte. -/
def State.placeAtFetch (s : State) (b : Byte × Byte) : State :=
  (s.writeRom (s.pc &&& s.amask) b.1).writeRom ((s.pc + 1) &&& s.amask) b.2

end Sys2Proof.Machine
end

