-- ==== Sys2Proof/Machine/Step.lean ====
section
/-! DEFINITION. One step of the machine: `ExecuteOne()` of spec/50_scheduler_and_host.md R221, the only way the core's state
advances. The scheduler's commands are built from it in Machine/Scheduler.lean (log 11). -/

namespace Sys2Proof.Machine

/-- Fetch, decode, perform the instruction's rule, then `CYC <- CYC + COST(op)` and `ACTIVE <- 1` (R221). The diagnostic it
hands back stands in the next state's `diag`. -/
def step (s : State) : Host.Outcome State Fault Refusal :=
  match exec s.fetch s.clearDiag with
  | .next s' => .next (s'.retire (cost s.fetchOp))
  | .fault r => .fault r
  | .refused r => .refused r

/-- `s` with the instruction of a table word stored where `step` fetches next; stands for the host's loading of a program
(R236; log 12). -/
def State.withFetchWord (s : State) (nbits w : Nat) : State := s.placeAtFetch (tableBytes nbits w)

end Sys2Proof.Machine
end

