-- ==== Sys2Proof/Machine/Responses.lean ====
section
/-! DEFINITION. What the block hands back to the host (spec/50_scheduler_and_host.md R228, R230, R232, R235). -/

namespace Sys2Proof.Machine

/-- The value a getter returns (R232). -/
inductive CellValue where
  /-- A number: a register, a flag as 0 or 1, a memory cell, a depth or a count. -/
  | num (v : Nat)
  /-- The three bits of `ERR`. -/
  | errBits (e : Err)
  /-- `SCHED`. -/
  | schedState (s : Sched)
deriving DecidableEq, Repr

/-- What `run` accumulates and returns: cost, instruction count, diagnostics in order, breakpoint hit (R225, R228). -/
structure RunResult where
  acc : Nat
  n : Nat
  ds : List Diagnostic
  hit : Bool
deriving DecidableEq, Repr

/-- The answer to a request. -/
inductive Response where
  /-- The request was served and returns nothing. -/
  | done
  /-- The request is outside its precondition; nothing changed (93_implementation_defined.md U9). -/
  | refused
  /-- A tick while not animating; nothing changed (R224). -/
  | ignored
  /-- `step()`: cost and at most one diagnostic (R222). -/
  | stepped (cost : Nat) (d : Option Diagnostic)
  /-- `tick(BP)`: cost, diagnostic, breakpoint hit (R224). -/
  | ticked (cost : Nat) (d : Option Diagnostic) (hit : Bool)
  /-- `run(budget, BP)` (R225). -/
  | ran (r : RunResult)
  /-- `peek` (R232). -/
  | value (v : CellValue)
  /-- `disasm`: the row that matches the opcode byte, and its instruction with the operand fields filled (R235). -/
  | row (r : Option Row) (i : Instr)
deriving DecidableEq, Repr

end Sys2Proof.Machine
end

