-- ==== Sys2Proof/Machine/Scheduler.lean ====
section
/-! DEFINITION. The execution scheduler of spec/50_scheduler_and_host.md: the commands step, animate, tick and run over
`ExecuteOne`. -/

namespace Sys2Proof.Machine

/-- The answer to a request: the state after it and what is handed back. -/
abbrev Served := Host.Outcome (State × Response) Fault Refusal

/-- `ExecuteOne()` with its return values `(cost, d)` (R221). -/
def executeOne (s : State) : Host.Outcome (State × Nat × Option Diagnostic) Fault Refusal :=
  match step s with
  | .next t => .next (t, cost s.fetchOp, t.diag)
  | .fault r => .fault r
  | .refused r => .refused r

/-- A command is allowed in `Stopped` and `Animating` (R220); the other two states are never seen by the host. -/
def State.commandAllowed (s : State) : Bool := s.sched == .stopped || s.sched == .animating

/-- The breakpoint test: the whole 12-bit `PCS[0]` against each entry (R226). -/
def breakpointHit (bp : List Addr) (s : State) : Bool := bp.contains s.pc

/-- `step()`: one instruction, then `Stopped`; no breakpoint test (R222). -/
def stepCommand (s : State) : Served :=
  if s.commandAllowed then
    match executeOne (s.setSched .steppingOnce) with
    | .next (t, c, d) => .next (t.setSched .stopped, .stepped c d)
    | .fault r => .fault r
    | .refused r => .refused r
  else .next (s, .refused)

/-- `animate()`: `SCHED <- Animating`, nothing executes (R223). -/
def animateCommand (s : State) : Served :=
  if s.commandAllowed then .next (s.setSched .animating, .done) else .next (s, .refused)

/-- `tick(BP)`: one instruction and the breakpoint test while animating, else nothing (R224). -/
def tickCommand (bp : List Addr) (s : State) : Served :=
  if s.sched = .animating then
    match executeOne s with
    | .next (t, c, d) =>
      let hit := breakpointHit bp t
      .next (if hit then t.setSched .stopped else t, .ticked c d hit)
    | .fault r => .fault r
    | .refused r => .refused r
  else .next (s, .ignored)

/-- The loop of `run`: the budget is tested before each instruction, the breakpoint after it (R225). `fuel` bounds the
instructions; `runCommand` gives it the budget, which is enough because every cost is at least 1 (R320). -/
def runLoop (budget : Nat) (bp : List Addr) : Nat → RunResult → State → Host.Outcome (State × RunResult) Fault Refusal
  | 0, r, s => .next (s, r)
  | fuel + 1, r, s =>
    if r.acc < budget ∧ r.hit = false then
      match executeOne s with
      | .next (t, c, d) =>
        runLoop budget bp fuel
          { acc := r.acc + c, n := r.n + 1, ds := r.ds ++ d.toList, hit := breakpointHit bp t } t
      | .fault f => .fault f
      | .refused f => .refused f
    else .next (s, r)

/-- `run(budget, BP)` (R225). -/
def runCommand (budget : Nat) (bp : List Addr) (s : State) : Served :=
  if s.commandAllowed then
    match runLoop budget bp budget ⟨0, 0, [], false⟩ (s.setSched .running) with
    | .next (t, r) => .next (t.setSched .stopped, .ran r)
    | .fault f => .fault f
    | .refused f => .refused f
  else .next (s, .refused)

end Sys2Proof.Machine
end

