-- ==== Sys2Proof/Machine/HostPorts.lean ====
section
/-! DEFINITION. The host's ports of spec/50_scheduler_and_host.md R230 to R237: the test inputs, loading the ROM, getters,
setters and the disassembly helper, and `serve`, which answers any request. -/

namespace Sys2Proof.Machine

/-- A flag as the number 0 or 1. -/
def flagValue (b : Bool) : CellValue := .num b.toNat

/-- `peek` of a cell whose indices are in range (R232); a port is read through `ReadPort` (20_memory.md R67). -/
def State.peek (s : State) : CellName → CellValue
  | .a => .num s.a.toNat
  | .c => flagValue s.c
  | .t => flagValue s.t
  | .tm => flagValue s.tm
  | .x i => .num (s.reg (BitVec.ofNat 4 i)).toNat
  | .pair p => .num (s.pair (BitVec.ofNat 3 p)).toNat
  | .pcs i => .num (s.pcs[i]?.getD 0).toNat
  | .sp => .num s.sp.toNat
  | .cmd => .num s.cmd.toNat
  | .cm => .num s.cm.toNat
  | .ram b g ch => .num (s.readChar (BitVec.ofNat 3 b) (BitVec.ofNat 2 g) (BitVec.ofNat 4 ch)).toNat
  | .status b g i => .num (s.readStatus (BitVec.ofNat 3 b) (BitVec.ofNat 2 g) (BitVec.ofNat 2 i)).toNat
  | .port b => .num (s.readPort (BitVec.ofNat 3 b)).toNat
  | .rom ad => .num (s.rom.read ad).toNat
  | .err => .errBits s.err
  | .cyc => .num s.cyc
  | .sched => .schedState s.sched
  | .active => flagValue s.active

/-- `PCS[i] <- v`, 12 bits, no mask by `AMASK` (R233). -/
def State.setSlot (s : State) (i : Nat) (v : Addr) : State := { s with pcs := s.pcs.setIfInBounds i v }

/-- `poke` of a writable cell whose indices are in range, with the clamp of R233; a cell without a setter is left alone. -/
def State.poke (s : State) (cell : CellName) (v : Nat) : State :=
  match cell with
  | .a => s.setA (BitVec.ofNat 4 v)
  | .c => s.setC (v.testBit 0)
  | .x i => s.setReg (BitVec.ofNat 4 i) (BitVec.ofNat 4 v)
  | .pair p => s.setPair (BitVec.ofNat 3 p) (BitVec.ofNat 8 v)
  | .pcs i => s.setSlot i (BitVec.ofNat 12 v)
  | .ram b g ch => s.writeChar (BitVec.ofNat 3 b) (BitVec.ofNat 2 g) (BitVec.ofNat 4 ch) (BitVec.ofNat 4 v)
  | .status b g i => s.writeStatus (BitVec.ofNat 3 b) (BitVec.ofNat 2 g) (BitVec.ofNat 2 i) (BitVec.ofNat 4 v)
  | .port b => s.writePort (BitVec.ofNat 3 b) (BitVec.ofNat 4 v)
  | .t | .tm | .sp | .cmd | .cm | .rom _ | .err | .cyc | .sched | .active => s

/-- `rom_load(addr, byte)`: refused while `ACTIVE = 1` (R237), else `ROM[addr mod ROMSIZE] <- trunc_8(byte)` (R236). -/
def romLoad (addr byte : Nat) (s : State) : Served :=
  if s.active then .next (s, .refused)
  else .next (s.writeRom (BitVec.ofNat 12 addr) (BitVec.ofNat 8 byte), .done)

/-- `disasm(op, b2)`: pure, reads no state (R235). -/
def disasm (op b2 : Byte) : Response := .row (rowOf op) (decodeOp op b2)

/-- Serves one request of the host, between instructions (R229). A request that is not well formed is refused with no
effect (R233, U9). -/
def serve (req : Request) (s : State) : Served :=
  if req.wellFormed then
    match req with
    | .reset => .next (s.resetOp, .done)
    | .step => stepCommand s
    | .animate => animateCommand s
    | .tick bp => tickCommand bp s
    | .run budget bp => runCommand budget bp s
    | .testIn v => .next (s.setT (v.testBit 0), .done)
    | .testModeIn v => .next (s.setTm (v.testBit 0), .done)
    | .romLoad addr byte => romLoad addr byte s
    | .peek cell => .next (s, .value (s.peek cell))
    | .poke cell v => .next (s.poke cell v, .done)
    | .disasm op b2 => .next (s, disasm op b2)
  else .next (s, .refused)

end Sys2Proof.Machine
end

