-- ==== Sys2Proof/Safety.lean ====
section
/-! DEFINITION. The terms that claims about the machine are stated in: what counts as an error-free state, the invariant,
the instruction classes of spec/10_state.md R20 and R23, and plain readings of a register and of the program counter. -/

namespace Sys2Proof.Safety

open Sys2Proof.Machine

/-- No diagnostic since reset: all three `ERR` bits are 0 (60_exceptions.md R268). -/
def errorFree (s : State) : Bool := !s.err.so && !s.err.su && !s.err.un

/-- `CM` holds 0 or a value of DCL's table (10_state.md R32). -/
def cmLegal (s : State) : Bool := [0, 1, 2, 3, 4, 8, 10, 12, 14].contains s.cm

/-- Stack slots beyond the depth are 0 (10_state.md R42, I3). -/
abbrev tailZero (s : State) : Prop := ∀ i : Fin 4, s.sp.toNat < i.val → s.pcs[i] = 0

/-- The invariant that every instruction keeps: the four address spaces are in canonical form and inside their sizes, stack
slots beyond the depth are 0, and `CM` is legal (R42, R32). The width bounds I1 and I2 of R42 are in the types. -/
abbrev Inv (s : State) : Prop := s.memoryWf = true ∧ tailZero s ∧ cmLegal s = true

/-- The part of the invariant that host setters keep as well: they may write a slot beyond the depth (R42, I3). -/
abbrev HostInv (s : State) : Prop := s.memoryWf = true ∧ cmLegal s = true

/-- The instruction's mnemonic is one of a list. -/
def oneOf (ms : List String) (i : Instr) : Bool := ms.contains i.mnemonic

/-- The control-flow family (40_control_flow.md). -/
def controlFlow : List String := ["JCN", "JIN", "JUN", "JMS", "ISZ", "BBL"]

/-- The writers of `C` (10_state.md R23). -/
def carryWriters : List String :=
  ["ADD", "SUB", "IAC", "DAC", "RAL", "RAR", "DAA", "CLB", "TCC", "TCS", "STC", "CMC"]

/-- The writers of `A` (10_state.md R20). -/
def accWriters : List String :=
  ["LD", "XCH", "LDM", "BBL", "ADD", "SUB", "RDM", "RD0", "RD1", "RD2", "RD3", "CLB", "IAC", "CMA", "RAL", "RAR", "TCC",
    "DAC", "TCS", "DAA", "KBP"]

/-- The writers of the scratchpad registers (10_state.md R20). -/
def regWriters : List String := ["FIM", "FIN", "INC", "ISZ", "XCH"]

/-- The rows of the unimplemented bytes. -/
def unimplementedRows : List String :=
  ["UNIMPL_0X", "UNIMPL_E2", "UNIMPL_E3", "UNIMPL_E8", "UNIMPL_EA", "UNIMPL_EB", "UNIMPL_F1", "UNIMPL_FE", "UNIMPL_FF"]

/-- The 24 unimplemented bytes (45_unimplemented.md R211). -/
def unimplementedBytes : List Byte :=
  [0x00, 0x01, 0x02, 0x03, 0x04, 0x05, 0x06, 0x07, 0x08, 0x09, 0x0A, 0x0B, 0x0C, 0x0D, 0x0E, 0x0F,
    0xE2, 0xE3, 0xE8, 0xEA, 0xEB, 0xF1, 0xFE, 0xFF]

/-- `x[n]` by its number. -/
def regAt (s : State) (n : Nat) : Nibble := s.x[n]?.getD 0

/-- The program-counter stack with `v & AMASK` in slot 0 and the other slots as they were (10_state.md R27). -/
def slot0 (s : State) (v : Addr) : Vector Addr 4 := s.pcs.set 0 (v &&& (if s.tm then 0x0FF else 0xFFF))

/-- An address in the page of `pc`: its upper four bits, then the byte `b` (40_control_flow.md R140 b). -/
def inPageOf (pc : Addr) (b : Byte) : Addr := pc.extractLsb' 8 4 ++ b

/-- Performs instructions one after the other. -/
def execAll : List Instr → State → Result
  | [], s => .next s
  | i :: is, s =>
    match exec i s with
    | .next t => execAll is t
    | .fault r => .fault r
    | .refused r => .refused r

/-- The first `n` `ExecuteOne`s from a state: the state after them, their summed cost, and the diagnostics they handed back
in order (50_scheduler_and_host.md R221, R225). -/
def executeMany : Nat → State → Host.Outcome (State × Nat × List Diagnostic) Fault Refusal
  | 0, s => .next (s, 0, [])
  | n + 1, s =>
    match executeMany n s with
    | .next (u, c, ds) =>
      match step u with
      | .next t => .next (t, c + cost u.fetchOp, ds ++ t.diag.toList)
      | .fault r => .fault r
      | .refused r => .refused r
    | .fault r => .fault r
    | .refused r => .refused r

end Sys2Proof.Safety
end

