-- ==== Sys2Proof/Certificates/Slice0/Obligations.lean ====
section
/-! DEFINITION. The statements about the machine for the provers. Each docstring names the rules of spec/ it formalises.
Where a rule carries the mark [decision: D<n>] or [derived], or rests on the model's own field `diag`, the docstring says so.
The Encoding lines of the instruction rules, which the spec marks as its own decision D1 (93_implementation_defined.md Part
3), are stated apart, in `EncodingsFollowTheMap`, and no statement cites a rule for them.
`exec` of an instruction is its rule (files 40 to 45); `step` is `ExecuteOne` (50_scheduler_and_host.md R221). A record
`{ s with … }` says that every other piece of state, all of memory included, is unchanged. -/

open Sys2Proof Sys2Proof.Machine Sys2Proof.Safety

/-! ## Encoding -/

/-- 95_test_vectors.md: bytes written out from the spec's example programs and vectors decode to the instructions they stand
for, one or more of each family. The opcode numbers are the spec's decision D1. -/
def Obligations.WordsOfTheSpecDecode : Prop :=
  decode [0x14, 0x20] = .ok (.jcn 4 0x20, []) ∧ decode [0x51, 0x23] = .ok (.jms 1 0x23, [])
    ∧ decode [0x24, 0x95, 0x25] = .ok (.fim 2 0x95, [0x25]) ∧ decode [0x36] = .ok (.fin 3, [])
    ∧ decode [0x85] = .ok (.add 5, []) ∧ decode [0x92] = .ok (.sub 2, []) ∧ decode [0xE0] = .ok (.wrm, [])
    ∧ decode [0xEC] = .ok (.rd0, []) ∧ decode [0xFB] = .ok (.daa, []) ∧ decode [0xFD] = .ok (.dcl, [])
    ∧ decode [0xF1] = .ok (.unimplF1, []) ∧ decode [0x07] = .ok (.unimpl0x 7, [])

/-- 30_encoding.md sections 1 to 4 (decisions D1, D2): the bytes of every instruction, its fields in the places the format
gives them. -/
def Obligations.EncodingsFollowTheMap : Prop :=
  (∀ (n : Nibble) (b : Byte),
      encode (.jcn n b) = [0x1#4 ++ n, b] ∧ encode (.jun n b) = [0x4#4 ++ n, b] ∧ encode (.jms n b) = [0x5#4 ++ n, b]
        ∧ encode (.isz n b) = [0x7#4 ++ n, b] ∧ encode (.inc n) = [0x6#4 ++ n] ∧ encode (.add n) = [0x8#4 ++ n]
        ∧ encode (.sub n) = [0x9#4 ++ n] ∧ encode (.ld n) = [0xA#4 ++ n] ∧ encode (.xch n) = [0xB#4 ++ n]
        ∧ encode (.bbl n) = [0xC#4 ++ n] ∧ encode (.ldm n) = [0xD#4 ++ n] ∧ encode (.unimpl0x n) = [0x0#4 ++ n])
    ∧ (∀ (p : PairNo) (b : Byte),
      encode (.fim p b) = [0x2#4 ++ p ++ 0#1, b] ∧ encode (.src p) = [0x2#4 ++ p ++ 1#1]
        ∧ encode (.fin p) = [0x3#4 ++ p ++ 0#1] ∧ encode (.jin p) = [0x3#4 ++ p ++ 1#1])
    ∧ [Instr.wrm, .wmp, .unimplE2, .unimplE3, .wr0, .wr1, .wr2, .wr3, .unimplE8, .rdm, .unimplEA, .unimplEB, .rd0, .rd1,
        .rd2, .rd3].map encode
      = [[0xE0], [0xE1], [0xE2], [0xE3], [0xE4], [0xE5], [0xE6], [0xE7], [0xE8], [0xE9], [0xEA], [0xEB], [0xEC], [0xED],
        [0xEE], [0xEF]]
    ∧ [Instr.clb, .unimplF1, .iac, .cmc, .cma, .ral, .rar, .tcc, .dac, .tcs, .stc, .daa, .kbp, .dcl, .unimplFE,
        .unimplFF].map encode
      = [[0xF0], [0xF1], [0xF2], [0xF3], [0xF4], [0xF5], [0xF6], [0xF7], [0xF8], [0xF9], [0xFA], [0xFB], [0xFC], [0xFD],
        [0xFE], [0xFF]]

/-- Decoding the bytes of any instruction, whatever follows them, gives the instruction back with every operand, and leaves
what follows. -/
def Obligations.DecodeOfEncode : Prop :=
  ∀ (i : Instr) (rest : List Byte), decode (encode i ++ rest) = .ok (i, rest)

/-- 30_encoding.md sections 1 to 4 (decision D1): any opcode byte and operand byte decode to an instruction whose bytes they
are, so no bit is dropped and no two byte patterns share an instruction. The two-byte instructions are those R111 lists. -/
def Obligations.EncodeOfDecode : Prop :=
  ∀ op b2 : Byte, encode (decodeOp op b2) =
    if op.toNat / 16 = 1 ∨ op.toNat / 16 = 4 ∨ op.toNat / 16 = 5 ∨ op.toNat / 16 = 7
        ∨ (op.toNat / 16 = 2 ∧ op.toNat % 2 = 0) then [op, b2] else [op]

/-- 30_encoding.md R115: for each opcode byte exactly one of the 48 rows of opcode_table.json matches, it is the row of the
instruction the byte decodes to, and its length and cost are those the machine uses. -/
def Obligations.OneRowMatchesEachByte : Prop :=
  opcodeTable.length = 48 ∧ ∀ op b2 : Byte, ∃ r ∈ opcodeTable,
    opcodeTable.filter (fun q => q.covers op) = [r] ∧ rowOf op = some r ∧ r.mnemonic = (decodeOp op b2).mnemonic
      ∧ r.length = (encode (decodeOp op b2)).length ∧ r.cost = cost op

/-- 45_unimplemented.md R211: the bytes that reach the unimplemented handler are exactly the 24 listed (decision D2), and
each is one byte long and is the instruction's own opcode byte. -/
def Obligations.UnimplementedBytesAreThe24 : Prop :=
  ∀ op b2 : Byte, (oneOf unimplementedRows (decodeOp op b2) = true ↔ op ∈ unimplementedBytes)
    ∧ (op ∈ unimplementedBytes → encode (decodeOp op b2) = [op])

/-! ## Control flow -/

/-- 40_control_flow.md JCN (decisions D3, D4, D6): the jump is taken when the selected conditions, ORed, differ from the
invert bit; the target is in the page of the first byte; else the program counter advances by 2. -/
def Obligations.JcnJumpsOnItsCondition : Prop :=
  ∀ (c : Nibble) (a : Byte) (s : State),
    exec (.jcn c a) s = .next
      { s with
        pcs := slot0 s
          (if ((c.getLsbD 2 = true ∧ s.a = 0) ∨ (c.getLsbD 1 = true ∧ s.c = true) ∨ (c.getLsbD 0 = true ∧ s.t = true))
              ↔ c.getLsbD 3 = false
           then inPageOf s.pcs[0] a else s.pcs[0] + 2) }

/-- 40_control_flow.md JIN (decisions D6, D7): the target is the pair's byte in the page of the instruction. -/
def Obligations.JinJumpsThroughItsPair : Prop :=
  ∀ (p : PairNo) (s : State),
    exec (.jin p) s = .next
      { s with pcs := slot0 s (inPageOf s.pcs[0] (regAt s (2 * p.toNat) ++ regAt s (2 * p.toNat + 1))) }

/-- 40_control_flow.md JUN (decision D8 for the mask in test mode): JUN writes the 12-bit address of its two bytes, masked,
to `PCS[0]`, and nothing else. -/
def Obligations.JunJumpsToItsAddress : Prop :=
  ∀ (h : Nibble) (l : Byte) (s : State),
    exec (.jun h l) s = .next { s with pcs := slot0 s (BitVec.ofNat 12 (h.toNat * 256 + l.toNat)) }

/-- 40_control_flow.md JMS (decision D12): with room the return address `(pc + 2) & AMASK` is pushed and control goes to the
target; with `SP = 3` only `PCS[0]` advances and StackOverflow is raised with the instruction's own address and opcode byte.
The clause about `diag` is about the model's own field (log 10). -/
def Obligations.JmsCallsOrOverflows : Prop :=
  ∀ (h : Nibble) (l : Byte) (s : State),
    let m : Addr := if s.tm then 0x0FF else 0xFFF
    exec (.jms h l) s = .next
      (if s.sp.toNat < 3 then
        { s with
          pcs := #v[BitVec.ofNat 12 (h.toNat * 256 + l.toNat) &&& m, (s.pcs[0] + 2) &&& m, s.pcs[1], s.pcs[2]]
          sp := s.sp + 1 }
      else
        { s with
          pcs := slot0 s (s.pcs[0] + 2)
          err := { s.err with so := true }
          diag := some ⟨.stackOverflow, s.pcs[0], 0x5#4 ++ h⟩ })

/-- 60_exceptions.md R263, with the pushed addresses and the slots they stand in from 10_state.md R29 and 40_control_flow.md
R144 (decisions D11, D12, log 21): a call at full depth leaves `PCS[1..3]`, `SP` and everything else as they were, advances
past the operand and sets `ERR.SO`; and three calls from the reset state succeed, a fourth sets `ERR.SO` and leaves the three
return addresses intact. (`diag` is the model's own field, log 10; nothing is said of it here.) -/
def Obligations.StackOverflowIsNotFatal : Prop :=
  (∀ (h : Nibble) (l : Byte) (s : State), s.sp = 3 → ∃ t, exec (.jms h l) s = .next t
      ∧ t = { s with pcs := slot0 s (s.pcs[0] + 2), err := { s.err with so := true }, diag := t.diag })
    ∧ ∀ (h₁ h₂ h₃ h₄ : Nibble) (l₁ l₂ l₃ l₄ : Byte), ∃ u v,
        execAll [.jms h₁ l₁, .jms h₂ l₂, .jms h₃ l₃] State.reset = .next u ∧ exec (.jms h₄ l₄) u = .next v
          ∧ u.err.so = false ∧ u.sp = 3 ∧ u.pcs = #v[h₃ ++ l₃, (h₂ ++ l₂) + 2, (h₁ ++ l₁) + 2, 2]
          ∧ v.err.so = true ∧ v.sp = 3 ∧ v.pcs = #v[(h₃ ++ l₃) + 2, (h₂ ++ l₂) + 2, (h₁ ++ l₁) + 2, 2]

/-- 40_control_flow.md ISZ: the register is incremented modulo 16 and the branch is taken exactly when it becomes zero; the
carry is not touched. The page base is decision D6. -/
def Obligations.IszBranchesWhenTheRegisterBecomesZero : Prop :=
  ∀ (r : RegNo) (a : Byte) (s : State),
    exec (.isz r a) s = .next
      { s with
        x := s.x.setIfInBounds r.toNat (BitVec.ofNat 4 (((regAt s r.toNat).toNat + 1) % 16))
        pcs := slot0 s (if regAt s r.toNat = 15 then inPageOf s.pcs[0] a else s.pcs[0] + 2) }

/-- 40_control_flow.md BBL (decisions D11, D13): with a return address held it is popped, unmasked, the vacated slot becomes
0 and `A` is loaded; at the base only `PCS[0]` advances and StackUnderflow is raised, `A` not loaded. The clause about
`diag` is about the model's own field (log 10). -/
def Obligations.BblReturnsOrUnderflows : Prop :=
  ∀ (d : Nibble) (s : State),
    exec (.bbl d) s = .next
      (if 0 < s.sp.toNat then
        { s with a := d, pcs := #v[s.pcs[1], s.pcs[2], s.pcs[3], 0], sp := s.sp - 1 }
      else
        { s with
          pcs := slot0 s (s.pcs[0] + 1)
          err := { s.err with su := true }
          diag := some ⟨.stackUnderflow, s.pcs[0], 0xC#4 ++ d⟩ })

/-- R264: a return at the base leaves `A` and everything else as it was, advances by one and sets `ERR.SU`. (`diag` is the
model's own field, log 10; nothing is said of it here.) -/
def Obligations.StackUnderflowLeavesTheAccumulator : Prop :=
  ∀ (d : Nibble) (s : State), s.sp = 0 → ∃ t, exec (.bbl d) s = .next t ∧ t.a = s.a
    ∧ t = { s with pcs := slot0 s (s.pcs[0] + 1), err := { s.err with su := true }, diag := t.diag }

/-- A call followed by a return comes back to the address after the call with the accumulator loaded and the depth and the
older return addresses restored (40_control_flow.md JMS and BBL, the source's round trip; decisions D11, D12). In a state
whose last slot is 0, which the invariant gives below full depth, slots 1 to 3 are all restored. -/
def Obligations.CallThenReturnComesBack : Prop :=
  ∀ (h : Nibble) (l : Byte) (d : Nibble) (s : State), s.sp ≠ 3 →
    execAll [.jms h l, .bbl d] s = .next
      { s with a := d, pcs := #v[(s.pcs[0] + 2) &&& (if s.tm then 0x0FF else 0xFFF), s.pcs[1], s.pcs[2], 0] }

/-! ## Registers and immediates -/

/-- R151: FIM writes the two nibbles of its second byte to the pair's registers and advances by 2. -/
def Obligations.FimLoadsThePair : Prop :=
  ∀ (p : PairNo) (d : Byte) (s : State),
    exec (.fim p d) s = .next
      { s with
        x := (s.x.setIfInBounds (2 * p.toNat) (BitVec.ofNat 4 (d.toNat / 16))).setIfInBounds (2 * p.toNat + 1)
          (BitVec.ofNat 4 (d.toNat % 16))
        pcs := slot0 s (s.pcs[0] + 2) }

/-- R152: SRC stores the pair's byte raw in `CMD`; registers and `CM` are unchanged. -/
def Obligations.SrcLoadsTheCommand : Prop :=
  ∀ (p : PairNo) (s : State),
    exec (.src p) s = .next
      { s with
        cmd := BitVec.ofNat 8 ((regAt s (2 * p.toNat)).toNat * 16 + (regAt s (2 * p.toNat + 1)).toNat)
        pcs := slot0 s (s.pcs[0] + 1) }

/-- 41_register_and_immediate.md FIN (decisions D6, D7, D9): the byte at pair 0's address in the instruction's page, masked,
goes to the named pair; with `p = 0` the address is the old pair 0. -/
def Obligations.FinFetchesThroughPairZero : Prop :=
  ∀ (p : PairNo) (s : State),
    let addr := inPageOf s.pcs[0] (regAt s 0 ++ regAt s 1)
    let byte := s.rom.read (if s.tm then addr.toNat % 256 else addr.toNat)
    exec (.fin p) s = .next
      { s with
        x := (s.x.setIfInBounds (2 * p.toNat) (BitVec.ofNat 4 (byte.toNat / 16))).setIfInBounds (2 * p.toNat + 1)
          (BitVec.ofNat 4 (byte.toNat % 16))
        pcs := slot0 s (s.pcs[0] + 1) }

/-- R154: INC adds one modulo 16 to the register and touches no flag. -/
def Obligations.IncWrapsWithoutCarry : Prop :=
  ∀ (r : RegNo) (s : State),
    exec (.inc r) s = .next
      { s with
        x := s.x.setIfInBounds r.toNat (BitVec.ofNat 4 (((regAt s r.toNat).toNat + 1) % 16))
        pcs := slot0 s (s.pcs[0] + 1) }

/-- 41_register_and_immediate.md LD: `A` becomes the register, which is unchanged. The direction is the spec's, from general
knowledge. -/
def Obligations.LdCopiesTheRegister : Prop :=
  ∀ (r : RegNo) (s : State),
    exec (.ld r) s = .next { s with a := regAt s r.toNat, pcs := slot0 s (s.pcs[0] + 1) }

/-- R156, R157: XCH swaps the accumulator and the register; LDM loads its immediate. -/
def Obligations.XchSwapsAndLdmLoads : Prop :=
  ∀ (r : RegNo) (d : Nibble) (s : State),
    exec (.xch r) s = .next
      { s with a := regAt s r.toNat, x := s.x.setIfInBounds r.toNat s.a, pcs := slot0 s (s.pcs[0] + 1) }
      ∧ exec (.ldm d) s = .next { s with a := d, pcs := slot0 s (s.pcs[0] + 1) }

/-! ## Arithmetic -/

/-- R161: ADD stores the sum of accumulator, register and carry modulo 16, and the carry is 1 exactly when the sum exceeds
15. -/
def Obligations.AddSumsWithCarry : Prop :=
  ∀ (r : RegNo) (s : State),
    let t := s.a.toNat + (regAt s r.toNat).toNat + s.c.toNat
    exec (.add r) s = .next
      { s with a := BitVec.ofNat 4 (t % 16), c := decide (15 < t), pcs := slot0 s (s.pcs[0] + 1) }

/-- 42_add_subtract.md SUB (decision D14): `A - x[r] - C` modulo 16, and the carry is 1 exactly when nothing is borrowed. -/
def Obligations.SubSubtractsWithBorrow : Prop :=
  ∀ (r : RegNo) (s : State),
    let sub := (regAt s r.toNat).toNat + s.c.toNat
    exec (.sub r) s = .next
      { s with
        a := BitVec.ofNat 4 ((s.a.toNat + 32 - sub) % 16)
        c := decide (sub ≤ s.a.toNat)
        pcs := slot0 s (s.pcs[0] + 1) }

/-! ## Data memory and ports -/

/-- 43_memory_io.md WRM (direction and cell: general knowledge, decision D1): WRM writes `A` to the resolved RAM character;
every other character, every other index of the space and all other state are unchanged. -/
def Obligations.WrmStoresTheCharacter : Prop :=
  ∀ s : State, ∃ t, exec .wrm s = .next t
    ∧ t.readChar s.resolve.bank s.resolve.group s.resolve.char = s.a
    ∧ (∀ b g ch, (b, g, ch) ≠ (s.resolve.bank, s.resolve.group, s.resolve.char) → t.readChar b g ch = s.readChar b g ch)
    ∧ (∀ k, k ≠ ramIndex s.resolve.bank s.resolve.group s.resolve.char → t.ram.read k = s.ram.read k)
    ∧ t = { s with ram := t.ram, pcs := slot0 s (s.pcs[0] + 1) }

/-- 43_memory_io.md WMP (direction and cell: general knowledge, decision D1): WMP writes `A` to the latch of the resolved
bank; every other latch and all other state, `T` too, are unchanged. -/
def Obligations.WmpStoresThePort : Prop :=
  ∀ s : State, ∃ t, exec .wmp s = .next t
    ∧ t.portLatch s.resolve.bank = s.a
    ∧ (∀ k, k ≠ s.resolve.bank.toNat → t.port.read k = s.port.read k)
    ∧ t = { s with port := t.port, pcs := slot0 s (s.pcs[0] + 1) }

/-- 43_memory_io.md WR0 to WR3 (direction and cell: general knowledge, decision D1): WR0 to WR3 write `A` to status
character 0 to 3 of the resolved bank and group; every other status cell and all other state are unchanged. -/
def Obligations.WrStoresItsStatusCharacter : Prop :=
  ∀ s : State, ∀ e ∈ [(Instr.wr0, 0#2), (Instr.wr1, 1#2), (Instr.wr2, 2#2), (Instr.wr3, 3#2)],
      ∃ t, exec e.1 s = .next t
        ∧ t.readStatus s.resolve.bank s.resolve.group e.2 = s.a
        ∧ (∀ k, k ≠ statusIndex s.resolve.bank s.resolve.group e.2 → t.status.read k = s.status.read k)
        ∧ t = { s with status := t.status, pcs := slot0 s (s.pcs[0] + 1) }

/-- 43_memory_io.md RDM and RD0 to RD3 (direction and cell: general knowledge, decision D1): RDM loads `A` from the resolved
RAM character, RD0 to RD3 from status character 0 to 3 of the resolved bank and group; nothing else changes. -/
def Obligations.ReadsLoadTheResolvedCell : Prop :=
  ∀ s : State,
      exec .rdm s = .next
        { s with
          a := s.ram.read (s.resolve.bank.toNat * 64 + s.resolve.group.toNat * 16 + s.resolve.char.toNat)
          pcs := slot0 s (s.pcs[0] + 1) }
      ∧ ∀ e ∈ [(Instr.rd0, 0), (Instr.rd1, 1), (Instr.rd2, 2), (Instr.rd3, 3)],
        exec e.1 s = .next
          { s with
            a := s.status.read (s.resolve.bank.toNat * 16 + s.resolve.group.toNat * 4 + e.2)
            pcs := slot0 s (s.pcs[0] + 1) }

/-- 20_memory.md section 4 (decisions D20, D21): the resolved bank, group and character as numbers; in test mode the bank is
its low bit. -/
def Obligations.ResolveReadsTheCommand : Prop :=
  ∀ s : State,
    let bank3 := 4 * (s.cm.toNat / 8) + s.cmd.toNat / 64
    s.resolve.bank.toNat = (if s.tm then bank3 % 2 else bank3)
      ∧ s.resolve.group.toNat = s.cmd.toNat / 16 % 4 ∧ s.resolve.char.toNat = s.cmd.toNat % 16

/-- R64, R65: after a write to a RAM character, a status character or a port, that cell reads the value written and every
other cell of the space reads as before; no other piece of state changes. -/
def Obligations.WriteChangesTheOneCellNamed : Prop :=
  (∀ (s : State) (b b' : BitVec 3) (g g' : BitVec 2) (ch ch' v : Nibble),
      (s.writeChar b g ch v).readChar b' g' ch' = (if b' = b ∧ g' = g ∧ ch' = ch then v else s.readChar b' g' ch')
        ∧ s.writeChar b g ch v = { s with ram := (s.writeChar b g ch v).ram })
    ∧ (∀ (s : State) (b b' : BitVec 3) (g g' i i' : BitVec 2) (v : Nibble),
      (s.writeStatus b g i v).readStatus b' g' i' = (if b' = b ∧ g' = g ∧ i' = i then v else s.readStatus b' g' i')
        ∧ s.writeStatus b g i v = { s with status := (s.writeStatus b g i v).status })
    ∧ ∀ (s : State) (b b' : BitVec 3) (v : Nibble),
      (s.writePort b v).portLatch b' = (if b' = b then v else s.portLatch b')
        ∧ s.writePort b v = { s with port := (s.writePort b v).port }

/-- 20_memory.md sections 2 and 3 (decisions D9, D10, D38): a ROM read uses 12 address bits, or 8 in test mode, and the port
getter answers bank 1 in test mode whatever bank is asked. -/
def Obligations.TestModeNarrowsRomAndPortReads : Prop :=
  ∀ (s : State) (a : Addr) (b : BitVec 3),
    s.romRead a = s.rom.read (if s.tm then a.toNat % 256 else a.toNat)
      ∧ s.readPort b = s.port.read (if s.tm then 1 else b.toNat)

/-- Two spaces in canonical form that read alike at every address are the same list, so equal memories are equal data. This
is about the model's representation of memory (log 17). -/
def Obligations.CanonicalCellsAreDeterminedByReads : Prop :=
  ∀ (w size : Nat) (m m' : Cells w), Cells.wf size m = true → Cells.wf size m' = true →
    (∀ a, m.read a = m'.read a) → m = m'

/-! ## Accumulator and carry -/

/-- R191, R193, R194, R199, R200: CLB clears accumulator and carry, CMC complements the carry, CMA gives `15 - A` and leaves
the carry, TCS gives `9 + C` and clears it, STC sets it. -/
def Obligations.ClbCmcCmaTcsStc : Prop :=
  ∀ s : State,
      exec .clb s = .next { s with a := 0, c := false, pcs := slot0 s (s.pcs[0] + 1) }
      ∧ exec .cmc s = .next { s with c := decide (1 - s.c.toNat = 1), pcs := slot0 s (s.pcs[0] + 1) }
      ∧ exec .cma s = .next { s with a := BitVec.ofNat 4 (15 - s.a.toNat), pcs := slot0 s (s.pcs[0] + 1) }
      ∧ exec .tcs s = .next { s with a := if s.c then 10 else 9, c := false, pcs := slot0 s (s.pcs[0] + 1) }
      ∧ exec .stc s = .next { s with c := true, pcs := slot0 s (s.pcs[0] + 1) }

/-- 44_accumulator.md IAC and DAC (decisions D15, D16): plus and minus one modulo 16; after IAC the carry is 1 exactly when
`A` was 15, after DAC exactly when it was not 0; the old carry does not enter. -/
def Obligations.IacAndDacCountWithCarry : Prop :=
  ∀ s : State,
    exec .iac s = .next { s with a := s.a + 1, c := decide (s.a = 15), pcs := slot0 s (s.pcs[0] + 1) }
      ∧ exec .dac s = .next { s with a := s.a - 1, c := decide (s.a ≠ 0), pcs := slot0 s (s.pcs[0] + 1) }

/-- 44_accumulator.md RAL, RAR and TCC (decisions D17, D18): the five bits `C ‖ A` rotate by one place; TCC moves the carry
to `A` and clears it. -/
def Obligations.RotatesMoveFiveBits : Prop :=
  ∀ s : State,
    let five : BitVec 5 := BitVec.ofBool s.c ++ s.a
    exec .ral s = .next
        { s with
          a := (five.rotateLeft 1).extractLsb' 0 4, c := (five.rotateLeft 1).getLsbD 4
          pcs := slot0 s (s.pcs[0] + 1) }
      ∧ exec .rar s = .next
        { s with
          a := (five.rotateRight 1).extractLsb' 0 4, c := (five.rotateRight 1).getLsbD 4
          pcs := slot0 s (s.pcs[0] + 1) }
      ∧ exec .tcc s = .next { s with a := if s.c then 1 else 0, c := false, pcs := slot0 s (s.pcs[0] + 1) }

/-- R201: DAA adds 6 when `A > 9` or the carry is set and recomputes the carry from that sum; else it changes nothing. -/
def Obligations.DaaAddsSix : Prop :=
  ∀ s : State, exec .daa s = .next
    (if 10 ≤ s.a.toNat then
      { s with a := BitVec.ofNat 4 (s.a.toNat - 10), c := true, pcs := slot0 s (s.pcs[0] + 1) }
    else if s.c then
      { s with a := BitVec.ofNat 4 (s.a.toNat + 6), c := false, pcs := slot0 s (s.pcs[0] + 1) }
    else { s with pcs := slot0 s (s.pcs[0] + 1) })

/-- R202: KBP maps 0, 1, 2, 4, 8 to 0, 1, 2, 3, 4 and every other value to 15; the carry is unchanged. -/
def Obligations.KbpMapsOneHotValues : Prop :=
  ∀ s : State, exec .kbp s = .next
    { s with
      a := [0, 1, 2, 15, 3, 15, 15, 15, 4, 15, 15, 15, 15, 15, 15, 15].getD s.a.toNat 0
      pcs := slot0 s (s.pcs[0] + 1) }

/-- 44_accumulator.md DCL (decision D21 for the register; C1 for the entry 3): `CM` gets the entry of `A[2:0]` in the table
1, 2, 4, 3, 8, 10, 12, 14; `A`, `C` and `CMD` are unchanged. -/
def Obligations.DclWritesTheCommandLine : Prop :=
  ∀ s : State, exec .dcl s = .next
    { s with cm := [1, 2, 4, 3, 8, 10, 12, 14].getD (s.a.toNat % 8) 0, pcs := slot0 s (s.pcs[0] + 1) }

/-! ## The unimplemented handler and diagnostics -/

/-- R265: each of the nine rows of unimplemented bytes advances by one and sets `ERR.UN`, and everything else is unchanged.
(`diag` is the model's own field, log 10; nothing is said of it here.) -/
def Obligations.UnimplementedBytesGoOn : Prop :=
  ∀ (n : Nibble) (s : State),
    ∀ i ∈ [Instr.unimpl0x n, .unimplE2, .unimplE3, .unimplE8, .unimplEA, .unimplEB, .unimplF1, .unimplFE, .unimplFF],
      ∃ t, exec i s = .next t
        ∧ t = { s with pcs := slot0 s (s.pcs[0] + 1), err := { s.err with un := true }, diag := t.diag }

/-- 60_exceptions.md sections 1 and 3 (R261, R267, R270; decision D24): the diagnostic a step hands back depends on the
fetched opcode byte and the depth alone: StackOverflow for a JMS byte at `SP = 3`, StackUnderflow for a BBL byte at `SP =
0`, UnimplementedOpcode for the 24 bytes, and none otherwise; it names the address of the first byte. -/
def Obligations.StepHandsBackAtMostOneDiagnostic : Prop :=
  ∀ s : State, ∃ t, step s = .next t ∧
    t.diag =
      if s.fetchOp.toNat / 16 = 5 ∧ s.sp = 3 then some ⟨.stackOverflow, s.pcs[0], s.fetchOp⟩
      else if s.fetchOp.toNat / 16 = 12 ∧ s.sp = 0 then some ⟨.stackUnderflow, s.pcs[0], s.fetchOp⟩
      else if s.fetchOp ∈ unimplementedBytes then some ⟨.unimplementedOpcode, s.pcs[0], s.fetchOp⟩
      else none

/-- 60_exceptions.md section 1 (R262, R268; decision D24): a step sets the sticky bit of the diagnostic it hands back and
clears no bit. -/
def Obligations.ErrorBitsAreSticky : Prop :=
  ∀ s : State, ∃ t, step s = .next t ∧
    ∀ k : DiagKind, t.err.bit k = (s.err.bit k || decide (t.diag.map (·.kind) = some k))

/-! ## The whole machine -/

/-- 50_scheduler_and_host.md `ExecuteOne` (R221; decisions D25, D29): when the bytes at the program counter decode to `i`, a
step is `exec i` from the state with no diagnostic raised, followed by the cost of the opcode byte and `ACTIVE <- 1`. -/
def Obligations.StepRunsTheDecodedInstruction : Prop :=
  ∀ (s : State) (i : Instr) (rest : List Byte),
    let m : Addr := if s.tm then 0x0FF else 0xFFF
    let op := s.rom.read (s.pcs[0] &&& m).toNat
    decode [op, s.rom.read ((s.pcs[0] + 1) &&& m).toNat] = .ok (i, rest) →
      step s = match exec i { s with diag := none } with
        | .next t => .next { t with cyc := t.cyc + cost op, active := true }
        | .fault f => .fault f
        | .refused f => .refused f

/-- 50_scheduler_and_host.md R239 (derived), R221, and 10_state.md R38, R40: from every state a step answers a next state;
it costs 1 or 2 cycles, sets `ACTIVE`, and leaves `SCHED`, `T`, `TM` and ROM as they were. -/
def Obligations.EveryStepCompletes : Prop :=
  ∀ s : State, ∃ t, step s = .next t ∧ t.cyc = s.cyc + cost s.fetchOp ∧ 1 ≤ cost s.fetchOp ∧ cost s.fetchOp ≤ 2
    ∧ t.active = true ∧ t.sched = s.sched ∧ t.t = s.t ∧ t.tm = s.tm ∧ t.rom = s.rom

/-- 41_register_and_immediate.md R150 and 45_unimplemented.md R212 (decision D19; the source's property): every instruction
outside the control-flow family advances the program counter by exactly its number of bytes, masked, and touches no other
stack slot nor the depth. -/
def Obligations.OthersAdvanceByTheirLength : Prop :=
  ∀ (i : Instr) (s : State), oneOf controlFlow i = false → ∃ t, exec i s = .next t
    ∧ t.pcs = slot0 s (s.pcs[0] + BitVec.ofNat 12 (encode i).length) ∧ t.sp = s.sp

/-- 10_state.md section 1, the column "written by", and R23 (decisions D16, D19): each piece of state is written by the
instructions listed for it and by no other. `T`, `TM`, ROM, `CYC`, `SCHED` and `ACTIVE` are written by no instruction's
rule. -/
def Obligations.EachCellHasOnlyItsWriters : Prop :=
  ∀ (i : Instr) (s : State), ∃ t, exec i s = .next t
    ∧ (oneOf accWriters i = false → t.a = s.a)
    ∧ (oneOf carryWriters i = false → t.c = s.c)
    ∧ (oneOf regWriters i = false → t.x = s.x)
    ∧ (oneOf ["JMS", "BBL"] i = false → t.sp = s.sp ∧ t.pcs = s.pcs.set 0 t.pcs[0])
    ∧ (i.mnemonic ≠ "SRC" → t.cmd = s.cmd) ∧ (i.mnemonic ≠ "DCL" → t.cm = s.cm)
    ∧ (i.mnemonic ≠ "WRM" → t.ram = s.ram) ∧ (i.mnemonic ≠ "WMP" → t.port = s.port)
    ∧ (oneOf ["WR0", "WR1", "WR2", "WR3"] i = false → t.status = s.status)
    ∧ (oneOf (["JMS", "BBL"] ++ unimplementedRows) i = false → t.err = s.err ∧ t.diag = s.diag)
    ∧ t.t = s.t ∧ t.tm = s.tm ∧ t.rom = s.rom ∧ t.cyc = s.cyc ∧ t.sched = s.sched ∧ t.active = s.active

/-- 10_state.md R20, R24 (decisions D4, D5): no instruction but JCN reads `T`: with another value of `T` it does the same to
everything else. -/
def Obligations.OnlyJcnReadsTheTestFlag : Prop :=
  ∀ (i : Instr) (s : State) (v : Bool), i.mnemonic ≠ "JCN" →
    ∃ t, exec i s = .next t ∧ exec i { s with t := v } = .next { t with t := v }

/-- 10_state.md R20, R37, R38 (decisions D24, D26): the error bits, the cycle counter, the scheduler state, `ACTIVE` and the
last diagnostic never change what a step does: two states that differ only in them step to states that differ only in them,
with the same diagnostic and the same cost. -/
def Obligations.BookkeepingNeverInfluencesExecution : Prop :=
  ∀ (s : State) (e : Err) (n : Nat) (q : Sched) (b : Bool) (d : Option Diagnostic), ∃ t e',
    step s = .next t ∧
      step { s with err := e, cyc := n, sched := q, active := b, diag := d }
        = .next { t with err := e', cyc := n + (t.cyc - s.cyc), sched := q, active := true }

/-- Every step keeps the invariant: the four address spaces stay in canonical form and inside their sizes, the stack slots
beyond the depth stay 0 (10_state.md R42, I3, derived), and `CM` stays 0 or a value of DCL's table (R32, decision D21). -/
def Obligations.EveryStepKeepsTheInvariant : Prop :=
  ∀ s t : State, Inv s → step s = .next t → Inv t

/-- The invariant holds at reset. -/
def Obligations.ResetSatisfiesTheInvariant : Prop := Inv State.reset

/-! ## Reset, scheduler and host -/

/-- 10_state.md R41 and 70_reset_and_hazards.md R305, R307 (decisions D23, D29): what reset leaves. ROM reads 0 everywhere
at power-on. -/
def Obligations.ResetLeavesEverythingZero : Prop :=
  let s := State.reset
  s.a = 0 ∧ s.c = false ∧ s.t = false ∧ s.tm = false ∧ (∀ r, s.reg r = 0) ∧ (∀ i : Fin 4, s.pcs[i] = 0) ∧ s.sp = 0
    ∧ s.cmd = 0 ∧ s.cm = 0 ∧ (∀ b g ch, s.readChar b g ch = 0) ∧ (∀ b g i, s.readStatus b g i = 0)
    ∧ (∀ b, s.portLatch b = 0) ∧ (∀ a, s.romRead a = 0) ∧ errorFree s = true ∧ s.cyc = 0 ∧ s.sched = .stopped
    ∧ s.active = false ∧ s.resolve = ⟨0, 0, 0⟩

/-- 70_reset_and_hazards.md section 1 (R302; decision D23 for the ROM): a second reset changes nothing, and the state a
reset leaves depends on the state before it in nothing but the ROM, which reset keeps. -/
def Obligations.ResetIsIdempotent : Prop :=
  ∀ s : State, ∃ t, serve .reset s = .next (t, .done) ∧ serve .reset t = .next (t, .done)
    ∧ t = { State.reset with rom := s.rom }

/-- 50_scheduler_and_host.md R222: `step()` performs one `ExecuteOne` with `SCHED` at `SteppingOnce`, returns to `Stopped`,
and hands back the cost and the diagnostic. That `step` is `ExecuteOne` is the model's choice of log 11, and that the
diagnostic it returns stands in `diag` that of log 10. -/
def Obligations.StepCommandExecutesOneInstruction : Prop :=
  ∀ s : State, s.sched = .stopped ∨ s.sched = .animating → ∃ t,
    step { s with sched := .steppingOnce } = .next t
      ∧ serve .step s = .next ({ t with sched := .stopped }, .stepped (cost s.fetchOp) t.diag)

/-- 50_scheduler_and_host.md R223, R224 (decision D28): `animate()` executes nothing; a tick while animating executes one
instruction and stops exactly when the new `PCS[0]` is in the set; a tick otherwise changes nothing. -/
def Obligations.TickIsAStepWithABreakpointTest : Prop :=
  ∀ (s : State) (bp : List Addr),
    (s.sched = .stopped ∨ s.sched = .animating → serve .animate s = .next ({ s with sched := .animating }, .done))
      ∧ (s.sched ≠ .animating → serve (.tick bp) s = .next (s, .ignored))
      ∧ (s.sched = .animating → ∃ t, step s = .next t ∧ serve (.tick bp) s =
          if t.pcs[0] ∈ bp then .next ({ t with sched := .stopped }, .ticked (cost s.fetchOp) t.diag true)
          else .next (t, .ticked (cost s.fetchOp) t.diag false))

/-- 50_scheduler_and_host.md R225, R226, R228 (decisions D25, D27; log 10 and 11 for the diagnostics and for `step` as
`ExecuteOne`): a run is exactly `r.n` `ExecuteOne`s and hands back their summed cost and their diagnostics in order. Before
each of them the cost so far is below the budget, and after none but the last is `PCS[0]` in the set. The hit is reported
exactly when an instruction was executed and the last one left `PCS[0]` in the set; without a hit the budget is met. At most
`budget` instructions are executed, the cycle counter advances by the cost, and `SCHED` ends at `Stopped`. -/
def Obligations.RunEndsAtBudgetOrBreakpoint : Prop :=
  ∀ (s : State) (budget : Nat) (bp : List Addr), s.sched = .stopped ∨ s.sched = .animating → ∃ t r,
    serve (.run budget bp) s = .next (t, .ran r) ∧ t.sched = .stopped
      ∧ executeMany r.n { s with sched := .running } = .next ({ t with sched := .running }, r.acc, r.ds)
      ∧ (∀ k < r.n, ∃ u c ds, executeMany k { s with sched := .running } = .next (u, c, ds) ∧ c < budget
          ∧ (0 < k → u.pcs[0] ∉ bp))
      ∧ (r.hit = true ↔ 0 < r.n ∧ t.pcs[0] ∈ bp) ∧ (r.hit = true ∨ budget ≤ r.acc)
      ∧ r.n ≤ budget ∧ t.cyc = s.cyc + r.acc

/-- 50_scheduler_and_host.md R236, R237 (decision D29): a ROM load is refused once an instruction has been executed, and
otherwise writes the byte modulo 256 at the address modulo 4096 and changes nothing else. -/
def Obligations.RomLoadIsGuarded : Prop :=
  ∀ (s : State) (addr byte : Nat),
    (s.active = true → serve (.romLoad addr byte) s = .next (s, .refused))
      ∧ (s.active = false → ∃ t, serve (.romLoad addr byte) s = .next (t, .done)
          ∧ t.rom.read (addr % 4096) = BitVec.ofNat 8 (byte % 256)
          ∧ (∀ k, k ≠ addr % 4096 → t.rom.read k = s.rom.read k) ∧ t = { s with rom := t.rom })

/-- 50_scheduler_and_host.md R231 (decision D5): the test inputs write `T` and `TM` and nothing else. -/
def Obligations.TestInputsWriteTheirBit : Prop :=
  ∀ (s : State) (v : Nat),
    serve (.testIn v) s = .next ({ s with t := decide (v % 2 = 1) }, .done)
      ∧ serve (.testModeIn v) s = .next ({ s with tm := decide (v % 2 = 1) }, .done)

/-- 50_scheduler_and_host.md R233 (decision D30; flat indices log 16): each setter writes the one cell named (a pair's two
registers), clamped to its width, and nothing else; so setting `A` leaves the carry, setting a stack slot leaves the depth,
and a port is written at the bank named in test mode too. A cell with an index outside its array or without a setter is
refused with no effect; the last arm names those, which `writable` rules out. -/
def Obligations.PokeTouchesOnlySettableCells : Prop :=
  ∀ (s : State) (cell : CellName) (v : Nat),
    (cell.inRange = false ∨ cell.writable = false → serve (.poke cell v) s = .next (s, .refused))
      ∧ (cell.inRange = true → cell.writable = true → ∃ t, serve (.poke cell v) s = .next (t, .done) ∧
          match cell with
          | .a => t = { s with a := BitVec.ofNat 4 (v % 16) }
          | .c => t = { s with c := decide (v % 2 = 1) }
          | .x i => t = { s with x := s.x.setIfInBounds i (BitVec.ofNat 4 (v % 16)) }
          | .pair p => t = { s with
              x := (s.x.setIfInBounds (2 * p) (BitVec.ofNat 4 (v / 16 % 16))).setIfInBounds (2 * p + 1)
                (BitVec.ofNat 4 (v % 16)) }
          | .pcs i => t = { s with pcs := s.pcs.setIfInBounds i (BitVec.ofNat 12 (v % 4096)) }
          | .ram b g ch => t = { s with ram := t.ram }
              ∧ ∀ k, t.ram.read k = if k = b * 64 + g * 16 + ch then BitVec.ofNat 4 (v % 16) else s.ram.read k
          | .status b g i => t = { s with status := t.status }
              ∧ ∀ k, t.status.read k = if k = b * 16 + g * 4 + i then BitVec.ofNat 4 (v % 16) else s.status.read k
          | .port b => t = { s with port := t.port }
              ∧ ∀ k, t.port.read k = if k = b then BitVec.ofNat 4 (v % 16) else s.port.read k
          | .t | .tm | .sp | .cmd | .cm | .rom _ | .err | .cyc | .sched | .active => t = s)

/-- 50_scheduler_and_host.md R232, R233, 20_memory.md R67 (decisions D30, D38; flat indices log 16): every getter leaves the
state as it was and shows its cell, the port getter the latch of bank 1 in test mode; a getter whose index is outside its
array is refused (log 15, the model's choice). A setter followed by the getter of the same cell shows the value clamped to
the cell's width, for every cell with a setter; a port is compared outside test mode, where the getter shows the bank
asked. -/
def Obligations.PeekAfterPokeShowsTheClampedValue : Prop :=
  ∀ s : State,
    (∀ cell : CellName, serve (.peek cell) s = .next (s,
      if cell.inRange then .value
        (match cell with
        | .a => .num s.a.toNat
        | .c => .num (if s.c then 1 else 0)
        | .t => .num (if s.t then 1 else 0)
        | .tm => .num (if s.tm then 1 else 0)
        | .x i => .num (regAt s i).toNat
        | .pair p => .num (16 * (regAt s (2 * p)).toNat + (regAt s (2 * p + 1)).toNat)
        | .pcs i => .num (s.pcs[i]?.getD 0).toNat
        | .sp => .num s.sp.toNat
        | .cmd => .num s.cmd.toNat
        | .cm => .num s.cm.toNat
        | .ram b g ch => .num (s.ram.read (b * 64 + g * 16 + ch)).toNat
        | .status b g i => .num (s.status.read (b * 16 + g * 4 + i)).toNat
        | .port b => .num (s.port.read (if s.tm then 1 else b)).toNat
        | .rom ad => .num (s.rom.read ad).toNat
        | .err => .errBits s.err
        | .cyc => .num s.cyc
        | .sched => .schedState s.sched
        | .active => .num (if s.active then 1 else 0))
      else .refused))
    ∧ ∀ (cell : CellName) (v width : Nat), cell.inRange = true →
      (cell = .c ∧ width = 1) ∨ ((∃ p, cell = .pair p) ∧ width = 8) ∨ ((∃ i, cell = .pcs i) ∧ width = 12)
        ∨ ((cell = .a ∨ (∃ i, cell = .x i) ∨ (∃ b g ch, cell = .ram b g ch) ∨ (∃ b g i, cell = .status b g i)
          ∨ (∃ b, cell = .port b) ∧ s.tm = false) ∧ width = 4) →
      ∃ t, serve (.poke cell v) s = .next (t, .done)
        ∧ serve (.peek cell) t = .next (t, .value (.num (v % 2 ^ width)))

/-- 50_scheduler_and_host.md R235 (the table's numbers are decision D1): the disassembly helper answers the row that matches
the opcode byte with the operand fields filled, reads no state and changes none. That the answer is a row and a decoded
instruction is the model's choice of log 15. -/
def Obligations.DisasmIsPure : Prop :=
  ∀ (s s' : State) (op b2 : Byte), ∃ r,
    serve (.disasm op b2) s = .next (s, .row (some r) (decodeOp op b2))
      ∧ serve (.disasm op b2) s' = .next (s', .row (some r) (decodeOp op b2))
      ∧ r ∈ opcodeTable ∧ r.covers op = true

/-- 60_exceptions.md R268, 70_reset_and_hazards.md R301 and 10_state.md R42 I4, I5 (derived; decision D24): every request is
answered with a next state, and no request but `reset` clears an error bit, lowers the cycle counter or clears `ACTIVE`. -/
def Obligations.OnlyResetClearsTheErrorState : Prop :=
  ∀ (req : Request) (s : State), ∃ t resp, serve req s = .next (t, resp)
    ∧ (req ≠ .reset → (∀ k, s.err.bit k = true → t.err.bit k = true) ∧ s.cyc ≤ t.cyc
        ∧ (s.active = true → t.active = true))

/-- Every request keeps the canonical form of the address spaces and the legality of `CM`, and leaves `SCHED` at `Stopped`
or `Animating` when it was one of these (10_state.md R42, derived; 50_scheduler_and_host.md R220, decision D36). -/
def Obligations.EveryRequestKeepsTheHostInvariant : Prop :=
  ∀ (req : Request) (s t : State) (resp : Response), HostInv s → s.sched = .stopped ∨ s.sched = .animating →
    serve req s = .next (t, resp) → HostInv t ∧ (t.sched = .stopped ∨ t.sched = .animating)
end

