-- ==== Sys2Proof/Laws/HostPorts.lean ====
section
/-! SUPPORT. The index checks of the cells a host request names, and what `serve` does with a request that passes or fails
its check. -/

namespace Sys2Proof.Machine

theorem CellName.inRange_x (i : Nat) : (CellName.x i).inRange = true ↔ i < 16 := decide_eq_true_iff

theorem CellName.inRange_pair (p : Nat) : (CellName.pair p).inRange = true ↔ p < 8 := decide_eq_true_iff

theorem CellName.inRange_pcs (i : Nat) : (CellName.pcs i).inRange = true ↔ i < 4 := decide_eq_true_iff

theorem CellName.inRange_ram (b g ch : Nat) : (CellName.ram b g ch).inRange = true ↔ b < 8 ∧ g < 4 ∧ ch < 16 := by
  simp only [CellName.inRange, Bool.and_eq_true, decide_eq_true_eq, and_assoc]
  rfl

theorem CellName.inRange_status (b g i : Nat) : (CellName.status b g i).inRange = true ↔ b < 8 ∧ g < 4 ∧ i < 4 := by
  simp only [CellName.inRange, Bool.and_eq_true, decide_eq_true_eq, and_assoc]
  rfl

theorem CellName.inRange_port (b : Nat) : (CellName.port b).inRange = true ↔ b < 8 := decide_eq_true_iff

theorem CellName.inRange_rom (ad : Nat) : (CellName.rom ad).inRange = true ↔ ad < 4096 := decide_eq_true_iff

/-- A bank, group or index in its range keeps its value when it is given the width of its field. -/
theorem toNat_ofNat_of_lt {w n : Nat} (h : n < 2 ^ w) : (BitVec.ofNat w n).toNat = n := by
  simp [Nat.mod_eq_of_lt h]

variable (s : State)

/-- A getter leaves the state as it was (R232). -/
theorem serve_peek (cell : CellName) :
    serve (.peek cell) s = .next (s, if cell.inRange then .value (s.peek cell) else .refused) := by
  by_cases h : cell.inRange = true <;> simp [serve, Request.wellFormed, h]

/-- A setter whose cell exists and has one (R233). -/
theorem serve_poke {cell : CellName} (hr : cell.inRange = true) (hw : cell.writable = true) (v : Nat) :
    serve (.poke cell v) s = .next (s.poke cell v, .done) := by
  simp [serve, Request.wellFormed, hr, hw]

/-- A setter whose cell does not exist or has none (R233, U9). -/
theorem serve_poke_refused {cell : CellName} (h : cell.inRange = false ∨ cell.writable = false) (v : Nat) :
    serve (.poke cell v) s = .next (s, .refused) := by
  have : (cell.inRange && cell.writable) = false := by rcases h with h | h <;> simp [h]
  simp [serve, Request.wellFormed, this]

end Sys2Proof.Machine
end

