-- ==== Sys2Proof/Laws/Memory.lean ====
section
/-! SUPPORT. The laws of the cells of an address space: what a read gives after a write, that every write keeps the canonical
form, and that canonical spaces with equal reads are equal. -/

namespace Sys2Proof.Machine

variable {w : Nat}

@[simp] theorem Cells.read_nil (a : Nat) : Cells.read ([] : Cells w) a = unlisted w := rfl

@[simp] theorem Cells.read_cons (b : Nat) (v : BitVec w) (m : Cells w) (a : Nat) :
    Cells.read ((b, v) :: m) a = if a = b then v else Cells.read m a := rfl

theorem Cells.read_erase (m : Cells w) (a b : Nat) :
    (m.erase a).read b = if b = a then unlisted w else m.read b := by
  induction m with
  | nil => simp [Cells.erase]
  | cons e rest ih =>
    obtain ⟨c, v⟩ := e
    simp only [Cells.erase] at ih ⊢
    by_cases hc : c = a
    · subst hc
      simp only [bne_self_eq_false, Bool.false_eq_true, not_false_eq_true, List.filter_cons_of_neg, ih,
        Cells.read_cons]
      split <;> simp_all
    · simp only [ne_eq, hc, not_false_eq_true, bne_iff_ne, List.filter_cons_of_pos, Cells.read_cons, ih]
      split
      · next h => subst h; simp [hc]
      · rfl

theorem Cells.read_insert (m : Cells w) (a b : Nat) (v : BitVec w)
    (ha : ∀ e ∈ m, e.1 ≠ a) : (m.insert a v).read b = if b = a then v else m.read b := by
  induction m with
  | nil => simp [Cells.insert]
  | cons e rest ih =>
    obtain ⟨c, u⟩ := e
    have hc : c ≠ a := ha (c, u) (by simp)
    have hr : ∀ e ∈ rest, e.1 ≠ a := fun e he => ha e (by simp [he])
    simp only [Cells.insert]
    split
    · simp
    · simp only [Cells.read_cons, ih hr]
      split
      · next h => subst h; simp [hc]
      · rfl

theorem Cells.erase_ne (m : Cells w) (a : Nat) : ∀ e ∈ m.erase a, e.1 ≠ a := by
  intro e he
  simpa [Cells.erase] using (List.mem_filter.1 he).2

/-- A read after a write: the value written at that address, the old value elsewhere; for any list of cells. -/
theorem Cells.read_write (m : Cells w) (a b : Nat) (v : BitVec w) :
    (m.write a v).read b = if b = a then v else m.read b := by
  simp only [Cells.write]
  split
  · next h => rw [Cells.read_erase, h]
  · rw [Cells.read_insert _ _ _ _ (Cells.erase_ne m a), Cells.read_erase]
    split <;> rfl

@[simp] theorem Cells.read_write_same (m : Cells w) (a : Nat) (v : BitVec w) : (m.write a v).read a = v := by
  simp [Cells.read_write]

theorem Cells.read_write_other (m : Cells w) {a b : Nat} (v : BitVec w) (h : b ≠ a) :
    (m.write a v).read b = m.read b := by
  simp [Cells.read_write, h]

theorem Cells.wfFrom_cons (size low a : Nat) (v : BitVec w) (m : Cells w) :
    Cells.wfFrom size low ((a, v) :: m) = true ↔
      low ≤ a ∧ a < size ∧ v ≠ unlisted w ∧ Cells.wfFrom size (a + 1) m = true := by
  simp [Cells.wfFrom, and_assoc]

theorem Cells.wfFrom_mono (size : Nat) {low low' : Nat} (hl : low' ≤ low) (m : Cells w)
    (h : Cells.wfFrom size low m = true) : Cells.wfFrom size low' m = true := by
  cases m with
  | nil => rfl
  | cons e rest =>
    obtain ⟨a, v⟩ := e
    rw [Cells.wfFrom_cons] at h ⊢
    exact ⟨by omega, h.2⟩

theorem Cells.wfFrom_erase (size low a : Nat) (m : Cells w) (h : Cells.wfFrom size low m = true) :
    Cells.wfFrom size low (m.erase a) = true := by
  induction m generalizing low with
  | nil => simpa [Cells.erase] using h
  | cons e rest ih =>
    obtain ⟨b, v⟩ := e
    rw [Cells.wfFrom_cons] at h
    obtain ⟨h1, h2, h3, h4⟩ := h
    simp only [Cells.erase] at ih ⊢
    by_cases hb : b = a
    · simp only [hb, bne_self_eq_false, Bool.false_eq_true, not_false_eq_true, List.filter_cons_of_neg]
      exact Cells.wfFrom_mono size (by omega) _ (ih _ h4)
    · simp only [ne_eq, hb, not_false_eq_true, bne_iff_ne, List.filter_cons_of_pos, Cells.wfFrom_cons]
      exact ⟨h1, h2, h3, ih _ h4⟩

theorem Cells.wfFrom_insert (size low a : Nat) (v : BitVec w) (m : Cells w) (h : Cells.wfFrom size low m = true)
    (hlow : low ≤ a) (hsize : a < size) (hv : v ≠ unlisted w) (hne : ∀ e ∈ m, e.1 ≠ a) :
    Cells.wfFrom size low (m.insert a v) = true := by
  induction m generalizing low with
  | nil => simp [Cells.insert, Cells.wfFrom, hlow, hsize, hv]
  | cons e rest ih =>
    obtain ⟨b, u⟩ := e
    rw [Cells.wfFrom_cons] at h
    obtain ⟨h1, h2, h3, h4⟩ := h
    have hb : b ≠ a := hne (b, u) (by simp)
    simp only [Cells.insert]
    split
    · simp only [Cells.wfFrom_cons]
      exact ⟨hlow, hsize, hv, by omega, h2, h3, h4⟩
    · rw [Cells.wfFrom_cons]
      exact ⟨h1, h2, h3, ih _ h4 (by omega) (fun e he => hne e (by simp [he]))⟩

/-- Every write inside the space keeps the canonical form. -/
theorem Cells.write_wf (size a : Nat) (v : BitVec w) (m : Cells w) (h : Cells.wf size m = true) (ha : a < size) :
    Cells.wf size (m.write a v) = true := by
  simp only [Cells.wf, Cells.write] at h ⊢
  split
  · exact Cells.wfFrom_erase _ _ _ _ h
  · next hv =>
    exact Cells.wfFrom_insert _ _ _ _ _ (Cells.wfFrom_erase _ _ _ _ h) (by omega) ha hv (Cells.erase_ne m a)

theorem ramIndex_lt (b : BitVec 3) (g : BitVec 2) (ch : Nibble) : ramIndex b g ch < Config.ramCells :=
  (b ++ g ++ ch).isLt

theorem statusIndex_lt (b : BitVec 3) (g i : BitVec 2) : statusIndex b g i < Config.statusCells :=
  (b ++ g ++ i).isLt

/-- The flat index of a RAM cell as a number: 64 cells a bank, 16 a group. -/
theorem ramIndex_eq (b : BitVec 3) (g : BitVec 2) (ch : Nibble) :
    ramIndex b g ch = b.toNat * 64 + g.toNat * 16 + ch.toNat := by
  simp only [ramIndex, BitVec.toNat_append]
  rw [← Nat.shiftLeft_add_eq_or_of_lt g.isLt, ← Nat.shiftLeft_add_eq_or_of_lt ch.isLt]
  simp only [Nat.shiftLeft_eq]
  omega

/-- The flat index of a STATUS cell as a number: 16 cells a bank, 4 a group. -/
theorem statusIndex_eq (b : BitVec 3) (g i : BitVec 2) :
    statusIndex b g i = b.toNat * 16 + g.toNat * 4 + i.toNat := by
  simp only [statusIndex, BitVec.toNat_append]
  rw [← Nat.shiftLeft_add_eq_or_of_lt g.isLt, ← Nat.shiftLeft_add_eq_or_of_lt i.isLt]
  simp only [Nat.shiftLeft_eq]
  omega

/-- Different cells of the RAM have different flat indices. -/
theorem ramIndex_inj (b b' : BitVec 3) (g g' : BitVec 2) (ch ch' : Nibble) :
    ramIndex b g ch = ramIndex b' g' ch' ↔ b = b' ∧ g = g' ∧ ch = ch' := by
  simp only [ramIndex_eq, ← BitVec.toNat_inj]
  have := g.isLt; have := g'.isLt; have := ch.isLt; have := ch'.isLt
  omega

/-- Different status cells have different flat indices. -/
theorem statusIndex_inj (b b' : BitVec 3) (g g' i i' : BitVec 2) :
    statusIndex b g i = statusIndex b' g' i' ↔ b = b' ∧ g = g' ∧ i = i' := by
  simp only [statusIndex_eq, ← BitVec.toNat_inj]
  have := g.isLt; have := g'.isLt; have := i.isLt; have := i'.isLt
  omega

/-- The memory of the reset state is in canonical form. -/
theorem State.reset_memoryWf : State.reset.memoryWf = true := rfl

end Sys2Proof.Machine
end

