-- ==== Sys2Proof/Laws/State.lean ====
section
/-! SUPPORT. What each update of the state does to each field, true by unfolding one record update; tagged for simp, so that
no later proof unfolds one again. -/

namespace Sys2Proof.Machine

variable (s : State)

/-! `setA` -/

@[simp] theorem State.setA_a (v : Nibble) : (s.setA v).a = v := rfl
@[simp] theorem State.setA_c (v : Nibble) : (s.setA v).c = s.c := rfl
@[simp] theorem State.setA_t (v : Nibble) : (s.setA v).t = s.t := rfl
@[simp] theorem State.setA_tm (v : Nibble) : (s.setA v).tm = s.tm := rfl
@[simp] theorem State.setA_x (v : Nibble) : (s.setA v).x = s.x := rfl
@[simp] theorem State.setA_pcs (v : Nibble) : (s.setA v).pcs = s.pcs := rfl
@[simp] theorem State.setA_sp (v : Nibble) : (s.setA v).sp = s.sp := rfl
@[simp] theorem State.setA_cmd (v : Nibble) : (s.setA v).cmd = s.cmd := rfl
@[simp] theorem State.setA_cm (v : Nibble) : (s.setA v).cm = s.cm := rfl
@[simp] theorem State.setA_rom (v : Nibble) : (s.setA v).rom = s.rom := rfl
@[simp] theorem State.setA_ram (v : Nibble) : (s.setA v).ram = s.ram := rfl
@[simp] theorem State.setA_status (v : Nibble) : (s.setA v).status = s.status := rfl
@[simp] theorem State.setA_port (v : Nibble) : (s.setA v).port = s.port := rfl
@[simp] theorem State.setA_err (v : Nibble) : (s.setA v).err = s.err := rfl
@[simp] theorem State.setA_cyc (v : Nibble) : (s.setA v).cyc = s.cyc := rfl
@[simp] theorem State.setA_sched (v : Nibble) : (s.setA v).sched = s.sched := rfl
@[simp] theorem State.setA_active (v : Nibble) : (s.setA v).active = s.active := rfl
@[simp] theorem State.setA_diag (v : Nibble) : (s.setA v).diag = s.diag := rfl

/-! `setC` -/

@[simp] theorem State.setC_a (v : Bool) : (s.setC v).a = s.a := rfl
@[simp] theorem State.setC_c (v : Bool) : (s.setC v).c = v := rfl
@[simp] theorem State.setC_t (v : Bool) : (s.setC v).t = s.t := rfl
@[simp] theorem State.setC_tm (v : Bool) : (s.setC v).tm = s.tm := rfl
@[simp] theorem State.setC_x (v : Bool) : (s.setC v).x = s.x := rfl
@[simp] theorem State.setC_pcs (v : Bool) : (s.setC v).pcs = s.pcs := rfl
@[simp] theorem State.setC_sp (v : Bool) : (s.setC v).sp = s.sp := rfl
@[simp] theorem State.setC_cmd (v : Bool) : (s.setC v).cmd = s.cmd := rfl
@[simp] theorem State.setC_cm (v : Bool) : (s.setC v).cm = s.cm := rfl
@[simp] theorem State.setC_rom (v : Bool) : (s.setC v).rom = s.rom := rfl
@[simp] theorem State.setC_ram (v : Bool) : (s.setC v).ram = s.ram := rfl
@[simp] theorem State.setC_status (v : Bool) : (s.setC v).status = s.status := rfl
@[simp] theorem State.setC_port (v : Bool) : (s.setC v).port = s.port := rfl
@[simp] theorem State.setC_err (v : Bool) : (s.setC v).err = s.err := rfl
@[simp] theorem State.setC_cyc (v : Bool) : (s.setC v).cyc = s.cyc := rfl
@[simp] theorem State.setC_sched (v : Bool) : (s.setC v).sched = s.sched := rfl
@[simp] theorem State.setC_active (v : Bool) : (s.setC v).active = s.active := rfl
@[simp] theorem State.setC_diag (v : Bool) : (s.setC v).diag = s.diag := rfl

/-! `setT` -/

@[simp] theorem State.setT_a (v : Bool) : (s.setT v).a = s.a := rfl
@[simp] theorem State.setT_c (v : Bool) : (s.setT v).c = s.c := rfl
@[simp] theorem State.setT_t (v : Bool) : (s.setT v).t = v := rfl
@[simp] theorem State.setT_tm (v : Bool) : (s.setT v).tm = s.tm := rfl
@[simp] theorem State.setT_x (v : Bool) : (s.setT v).x = s.x := rfl
@[simp] theorem State.setT_pcs (v : Bool) : (s.setT v).pcs = s.pcs := rfl
@[simp] theorem State.setT_sp (v : Bool) : (s.setT v).sp = s.sp := rfl
@[simp] theorem State.setT_cmd (v : Bool) : (s.setT v).cmd = s.cmd := rfl
@[simp] theorem State.setT_cm (v : Bool) : (s.setT v).cm = s.cm := rfl
@[simp] theorem State.setT_rom (v : Bool) : (s.setT v).rom = s.rom := rfl
@[simp] theorem State.setT_ram (v : Bool) : (s.setT v).ram = s.ram := rfl
@[simp] theorem State.setT_status (v : Bool) : (s.setT v).status = s.status := rfl
@[simp] theorem State.setT_port (v : Bool) : (s.setT v).port = s.port := rfl
@[simp] theorem State.setT_err (v : Bool) : (s.setT v).err = s.err := rfl
@[simp] theorem State.setT_cyc (v : Bool) : (s.setT v).cyc = s.cyc := rfl
@[simp] theorem State.setT_sched (v : Bool) : (s.setT v).sched = s.sched := rfl
@[simp] theorem State.setT_active (v : Bool) : (s.setT v).active = s.active := rfl
@[simp] theorem State.setT_diag (v : Bool) : (s.setT v).diag = s.diag := rfl

/-! `setTm` -/

@[simp] theorem State.setTm_a (v : Bool) : (s.setTm v).a = s.a := rfl
@[simp] theorem State.setTm_c (v : Bool) : (s.setTm v).c = s.c := rfl
@[simp] theorem State.setTm_t (v : Bool) : (s.setTm v).t = s.t := rfl
@[simp] theorem State.setTm_tm (v : Bool) : (s.setTm v).tm = v := rfl
@[simp] theorem State.setTm_x (v : Bool) : (s.setTm v).x = s.x := rfl
@[simp] theorem State.setTm_pcs (v : Bool) : (s.setTm v).pcs = s.pcs := rfl
@[simp] theorem State.setTm_sp (v : Bool) : (s.setTm v).sp = s.sp := rfl
@[simp] theorem State.setTm_cmd (v : Bool) : (s.setTm v).cmd = s.cmd := rfl
@[simp] theorem State.setTm_cm (v : Bool) : (s.setTm v).cm = s.cm := rfl
@[simp] theorem State.setTm_rom (v : Bool) : (s.setTm v).rom = s.rom := rfl
@[simp] theorem State.setTm_ram (v : Bool) : (s.setTm v).ram = s.ram := rfl
@[simp] theorem State.setTm_status (v : Bool) : (s.setTm v).status = s.status := rfl
@[simp] theorem State.setTm_port (v : Bool) : (s.setTm v).port = s.port := rfl
@[simp] theorem State.setTm_err (v : Bool) : (s.setTm v).err = s.err := rfl
@[simp] theorem State.setTm_cyc (v : Bool) : (s.setTm v).cyc = s.cyc := rfl
@[simp] theorem State.setTm_sched (v : Bool) : (s.setTm v).sched = s.sched := rfl
@[simp] theorem State.setTm_active (v : Bool) : (s.setTm v).active = s.active := rfl
@[simp] theorem State.setTm_diag (v : Bool) : (s.setTm v).diag = s.diag := rfl

/-! `setReg` -/

@[simp] theorem State.setReg_a (r : RegNo) (v : Nibble) : (s.setReg r v).a = s.a := rfl
@[simp] theorem State.setReg_c (r : RegNo) (v : Nibble) : (s.setReg r v).c = s.c := rfl
@[simp] theorem State.setReg_t (r : RegNo) (v : Nibble) : (s.setReg r v).t = s.t := rfl
@[simp] theorem State.setReg_tm (r : RegNo) (v : Nibble) : (s.setReg r v).tm = s.tm := rfl
@[simp] theorem State.setReg_x (r : RegNo) (v : Nibble) : (s.setReg r v).x = s.x.set r.toNat v r.isLt := rfl
@[simp] theorem State.setReg_pcs (r : RegNo) (v : Nibble) : (s.setReg r v).pcs = s.pcs := rfl
@[simp] theorem State.setReg_sp (r : RegNo) (v : Nibble) : (s.setReg r v).sp = s.sp := rfl
@[simp] theorem State.setReg_cmd (r : RegNo) (v : Nibble) : (s.setReg r v).cmd = s.cmd := rfl
@[simp] theorem State.setReg_cm (r : RegNo) (v : Nibble) : (s.setReg r v).cm = s.cm := rfl
@[simp] theorem State.setReg_rom (r : RegNo) (v : Nibble) : (s.setReg r v).rom = s.rom := rfl
@[simp] theorem State.setReg_ram (r : RegNo) (v : Nibble) : (s.setReg r v).ram = s.ram := rfl
@[simp] theorem State.setReg_status (r : RegNo) (v : Nibble) : (s.setReg r v).status = s.status := rfl
@[simp] theorem State.setReg_port (r : RegNo) (v : Nibble) : (s.setReg r v).port = s.port := rfl
@[simp] theorem State.setReg_err (r : RegNo) (v : Nibble) : (s.setReg r v).err = s.err := rfl
@[simp] theorem State.setReg_cyc (r : RegNo) (v : Nibble) : (s.setReg r v).cyc = s.cyc := rfl
@[simp] theorem State.setReg_sched (r : RegNo) (v : Nibble) : (s.setReg r v).sched = s.sched := rfl
@[simp] theorem State.setReg_active (r : RegNo) (v : Nibble) : (s.setReg r v).active = s.active := rfl
@[simp] theorem State.setReg_diag (r : RegNo) (v : Nibble) : (s.setReg r v).diag = s.diag := rfl

/-! `jump` -/

@[simp] theorem State.jump_a (p : Addr) : (s.jump p).a = s.a := rfl
@[simp] theorem State.jump_c (p : Addr) : (s.jump p).c = s.c := rfl
@[simp] theorem State.jump_t (p : Addr) : (s.jump p).t = s.t := rfl
@[simp] theorem State.jump_tm (p : Addr) : (s.jump p).tm = s.tm := rfl
@[simp] theorem State.jump_x (p : Addr) : (s.jump p).x = s.x := rfl
@[simp] theorem State.jump_pcs (p : Addr) : (s.jump p).pcs = s.pcs.set 0 (p &&& s.amask) := rfl
@[simp] theorem State.jump_sp (p : Addr) : (s.jump p).sp = s.sp := rfl
@[simp] theorem State.jump_cmd (p : Addr) : (s.jump p).cmd = s.cmd := rfl
@[simp] theorem State.jump_cm (p : Addr) : (s.jump p).cm = s.cm := rfl
@[simp] theorem State.jump_rom (p : Addr) : (s.jump p).rom = s.rom := rfl
@[simp] theorem State.jump_ram (p : Addr) : (s.jump p).ram = s.ram := rfl
@[simp] theorem State.jump_status (p : Addr) : (s.jump p).status = s.status := rfl
@[simp] theorem State.jump_port (p : Addr) : (s.jump p).port = s.port := rfl
@[simp] theorem State.jump_err (p : Addr) : (s.jump p).err = s.err := rfl
@[simp] theorem State.jump_cyc (p : Addr) : (s.jump p).cyc = s.cyc := rfl
@[simp] theorem State.jump_sched (p : Addr) : (s.jump p).sched = s.sched := rfl
@[simp] theorem State.jump_active (p : Addr) : (s.jump p).active = s.active := rfl
@[simp] theorem State.jump_diag (p : Addr) : (s.jump p).diag = s.diag := rfl

/-! `advance` -/

@[simp] theorem State.advance_a (n : Addr) : (s.advance n).a = s.a := rfl
@[simp] theorem State.advance_c (n : Addr) : (s.advance n).c = s.c := rfl
@[simp] theorem State.advance_t (n : Addr) : (s.advance n).t = s.t := rfl
@[simp] theorem State.advance_tm (n : Addr) : (s.advance n).tm = s.tm := rfl
@[simp] theorem State.advance_x (n : Addr) : (s.advance n).x = s.x := rfl
@[simp] theorem State.advance_pcs (n : Addr) : (s.advance n).pcs = s.pcs.set 0 ((s.pc + n) &&& s.amask) := rfl
@[simp] theorem State.advance_sp (n : Addr) : (s.advance n).sp = s.sp := rfl
@[simp] theorem State.advance_cmd (n : Addr) : (s.advance n).cmd = s.cmd := rfl
@[simp] theorem State.advance_cm (n : Addr) : (s.advance n).cm = s.cm := rfl
@[simp] theorem State.advance_rom (n : Addr) : (s.advance n).rom = s.rom := rfl
@[simp] theorem State.advance_ram (n : Addr) : (s.advance n).ram = s.ram := rfl
@[simp] theorem State.advance_status (n : Addr) : (s.advance n).status = s.status := rfl
@[simp] theorem State.advance_port (n : Addr) : (s.advance n).port = s.port := rfl
@[simp] theorem State.advance_err (n : Addr) : (s.advance n).err = s.err := rfl
@[simp] theorem State.advance_cyc (n : Addr) : (s.advance n).cyc = s.cyc := rfl
@[simp] theorem State.advance_sched (n : Addr) : (s.advance n).sched = s.sched := rfl
@[simp] theorem State.advance_active (n : Addr) : (s.advance n).active = s.active := rfl
@[simp] theorem State.advance_diag (n : Addr) : (s.advance n).diag = s.diag := rfl

/-! `push` -/

@[simp] theorem State.push_a (p q : Addr) : (s.push p q).a = s.a := rfl
@[simp] theorem State.push_c (p q : Addr) : (s.push p q).c = s.c := rfl
@[simp] theorem State.push_t (p q : Addr) : (s.push p q).t = s.t := rfl
@[simp] theorem State.push_tm (p q : Addr) : (s.push p q).tm = s.tm := rfl
@[simp] theorem State.push_x (p q : Addr) : (s.push p q).x = s.x := rfl
@[simp] theorem State.push_pcs (p q : Addr) : (s.push p q).pcs = #v[p &&& s.amask, q, s.pcs[1], s.pcs[2]] := rfl
@[simp] theorem State.push_sp (p q : Addr) : (s.push p q).sp = s.sp + 1 := rfl
@[simp] theorem State.push_cmd (p q : Addr) : (s.push p q).cmd = s.cmd := rfl
@[simp] theorem State.push_cm (p q : Addr) : (s.push p q).cm = s.cm := rfl
@[simp] theorem State.push_rom (p q : Addr) : (s.push p q).rom = s.rom := rfl
@[simp] theorem State.push_ram (p q : Addr) : (s.push p q).ram = s.ram := rfl
@[simp] theorem State.push_status (p q : Addr) : (s.push p q).status = s.status := rfl
@[simp] theorem State.push_port (p q : Addr) : (s.push p q).port = s.port := rfl
@[simp] theorem State.push_err (p q : Addr) : (s.push p q).err = s.err := rfl
@[simp] theorem State.push_cyc (p q : Addr) : (s.push p q).cyc = s.cyc := rfl
@[simp] theorem State.push_sched (p q : Addr) : (s.push p q).sched = s.sched := rfl
@[simp] theorem State.push_active (p q : Addr) : (s.push p q).active = s.active := rfl
@[simp] theorem State.push_diag (p q : Addr) : (s.push p q).diag = s.diag := rfl

/-! `pop` -/

@[simp] theorem State.pop_a : (s.pop).a = s.a := rfl
@[simp] theorem State.pop_c : (s.pop).c = s.c := rfl
@[simp] theorem State.pop_t : (s.pop).t = s.t := rfl
@[simp] theorem State.pop_tm : (s.pop).tm = s.tm := rfl
@[simp] theorem State.pop_x : (s.pop).x = s.x := rfl
@[simp] theorem State.pop_pcs : (s.pop).pcs = #v[s.pcs[1], s.pcs[2], s.pcs[3], 0] := rfl
@[simp] theorem State.pop_sp : (s.pop).sp = s.sp - 1 := rfl
@[simp] theorem State.pop_cmd : (s.pop).cmd = s.cmd := rfl
@[simp] theorem State.pop_cm : (s.pop).cm = s.cm := rfl
@[simp] theorem State.pop_rom : (s.pop).rom = s.rom := rfl
@[simp] theorem State.pop_ram : (s.pop).ram = s.ram := rfl
@[simp] theorem State.pop_status : (s.pop).status = s.status := rfl
@[simp] theorem State.pop_port : (s.pop).port = s.port := rfl
@[simp] theorem State.pop_err : (s.pop).err = s.err := rfl
@[simp] theorem State.pop_cyc : (s.pop).cyc = s.cyc := rfl
@[simp] theorem State.pop_sched : (s.pop).sched = s.sched := rfl
@[simp] theorem State.pop_active : (s.pop).active = s.active := rfl
@[simp] theorem State.pop_diag : (s.pop).diag = s.diag := rfl

/-! `setCmd` -/

@[simp] theorem State.setCmd_a (v : Byte) : (s.setCmd v).a = s.a := rfl
@[simp] theorem State.setCmd_c (v : Byte) : (s.setCmd v).c = s.c := rfl
@[simp] theorem State.setCmd_t (v : Byte) : (s.setCmd v).t = s.t := rfl
@[simp] theorem State.setCmd_tm (v : Byte) : (s.setCmd v).tm = s.tm := rfl
@[simp] theorem State.setCmd_x (v : Byte) : (s.setCmd v).x = s.x := rfl
@[simp] theorem State.setCmd_pcs (v : Byte) : (s.setCmd v).pcs = s.pcs := rfl
@[simp] theorem State.setCmd_sp (v : Byte) : (s.setCmd v).sp = s.sp := rfl
@[simp] theorem State.setCmd_cmd (v : Byte) : (s.setCmd v).cmd = v := rfl
@[simp] theorem State.setCmd_cm (v : Byte) : (s.setCmd v).cm = s.cm := rfl
@[simp] theorem State.setCmd_rom (v : Byte) : (s.setCmd v).rom = s.rom := rfl
@[simp] theorem State.setCmd_ram (v : Byte) : (s.setCmd v).ram = s.ram := rfl
@[simp] theorem State.setCmd_status (v : Byte) : (s.setCmd v).status = s.status := rfl
@[simp] theorem State.setCmd_port (v : Byte) : (s.setCmd v).port = s.port := rfl
@[simp] theorem State.setCmd_err (v : Byte) : (s.setCmd v).err = s.err := rfl
@[simp] theorem State.setCmd_cyc (v : Byte) : (s.setCmd v).cyc = s.cyc := rfl
@[simp] theorem State.setCmd_sched (v : Byte) : (s.setCmd v).sched = s.sched := rfl
@[simp] theorem State.setCmd_active (v : Byte) : (s.setCmd v).active = s.active := rfl
@[simp] theorem State.setCmd_diag (v : Byte) : (s.setCmd v).diag = s.diag := rfl

/-! `setCm` -/

@[simp] theorem State.setCm_a (v : Nibble) : (s.setCm v).a = s.a := rfl
@[simp] theorem State.setCm_c (v : Nibble) : (s.setCm v).c = s.c := rfl
@[simp] theorem State.setCm_t (v : Nibble) : (s.setCm v).t = s.t := rfl
@[simp] theorem State.setCm_tm (v : Nibble) : (s.setCm v).tm = s.tm := rfl
@[simp] theorem State.setCm_x (v : Nibble) : (s.setCm v).x = s.x := rfl
@[simp] theorem State.setCm_pcs (v : Nibble) : (s.setCm v).pcs = s.pcs := rfl
@[simp] theorem State.setCm_sp (v : Nibble) : (s.setCm v).sp = s.sp := rfl
@[simp] theorem State.setCm_cmd (v : Nibble) : (s.setCm v).cmd = s.cmd := rfl
@[simp] theorem State.setCm_cm (v : Nibble) : (s.setCm v).cm = v := rfl
@[simp] theorem State.setCm_rom (v : Nibble) : (s.setCm v).rom = s.rom := rfl
@[simp] theorem State.setCm_ram (v : Nibble) : (s.setCm v).ram = s.ram := rfl
@[simp] theorem State.setCm_status (v : Nibble) : (s.setCm v).status = s.status := rfl
@[simp] theorem State.setCm_port (v : Nibble) : (s.setCm v).port = s.port := rfl
@[simp] theorem State.setCm_err (v : Nibble) : (s.setCm v).err = s.err := rfl
@[simp] theorem State.setCm_cyc (v : Nibble) : (s.setCm v).cyc = s.cyc := rfl
@[simp] theorem State.setCm_sched (v : Nibble) : (s.setCm v).sched = s.sched := rfl
@[simp] theorem State.setCm_active (v : Nibble) : (s.setCm v).active = s.active := rfl
@[simp] theorem State.setCm_diag (v : Nibble) : (s.setCm v).diag = s.diag := rfl

/-! `writeRom` -/

@[simp] theorem State.writeRom_a (p : Addr) (v : Byte) : (s.writeRom p v).a = s.a := rfl
@[simp] theorem State.writeRom_c (p : Addr) (v : Byte) : (s.writeRom p v).c = s.c := rfl
@[simp] theorem State.writeRom_t (p : Addr) (v : Byte) : (s.writeRom p v).t = s.t := rfl
@[simp] theorem State.writeRom_tm (p : Addr) (v : Byte) : (s.writeRom p v).tm = s.tm := rfl
@[simp] theorem State.writeRom_x (p : Addr) (v : Byte) : (s.writeRom p v).x = s.x := rfl
@[simp] theorem State.writeRom_pcs (p : Addr) (v : Byte) : (s.writeRom p v).pcs = s.pcs := rfl
@[simp] theorem State.writeRom_sp (p : Addr) (v : Byte) : (s.writeRom p v).sp = s.sp := rfl
@[simp] theorem State.writeRom_cmd (p : Addr) (v : Byte) : (s.writeRom p v).cmd = s.cmd := rfl
@[simp] theorem State.writeRom_cm (p : Addr) (v : Byte) : (s.writeRom p v).cm = s.cm := rfl
@[simp] theorem State.writeRom_rom (p : Addr) (v : Byte) : (s.writeRom p v).rom = s.rom.write p.toNat v := rfl
@[simp] theorem State.writeRom_ram (p : Addr) (v : Byte) : (s.writeRom p v).ram = s.ram := rfl
@[simp] theorem State.writeRom_status (p : Addr) (v : Byte) : (s.writeRom p v).status = s.status := rfl
@[simp] theorem State.writeRom_port (p : Addr) (v : Byte) : (s.writeRom p v).port = s.port := rfl
@[simp] theorem State.writeRom_err (p : Addr) (v : Byte) : (s.writeRom p v).err = s.err := rfl
@[simp] theorem State.writeRom_cyc (p : Addr) (v : Byte) : (s.writeRom p v).cyc = s.cyc := rfl
@[simp] theorem State.writeRom_sched (p : Addr) (v : Byte) : (s.writeRom p v).sched = s.sched := rfl
@[simp] theorem State.writeRom_active (p : Addr) (v : Byte) : (s.writeRom p v).active = s.active := rfl
@[simp] theorem State.writeRom_diag (p : Addr) (v : Byte) : (s.writeRom p v).diag = s.diag := rfl

/-! `writeChar` -/

@[simp] theorem State.writeChar_a (b : BitVec 3) (g : BitVec 2) (ch v : Nibble) : (s.writeChar b g ch v).a = s.a := rfl
@[simp] theorem State.writeChar_c (b : BitVec 3) (g : BitVec 2) (ch v : Nibble) : (s.writeChar b g ch v).c = s.c := rfl
@[simp] theorem State.writeChar_t (b : BitVec 3) (g : BitVec 2) (ch v : Nibble) : (s.writeChar b g ch v).t = s.t := rfl
@[simp] theorem State.writeChar_tm (b : BitVec 3) (g : BitVec 2) (ch v : Nibble) : (s.writeChar b g ch v).tm = s.tm := rfl
@[simp] theorem State.writeChar_x (b : BitVec 3) (g : BitVec 2) (ch v : Nibble) : (s.writeChar b g ch v).x = s.x := rfl
@[simp] theorem State.writeChar_pcs (b : BitVec 3) (g : BitVec 2) (ch v : Nibble) : (s.writeChar b g ch v).pcs = s.pcs := rfl
@[simp] theorem State.writeChar_sp (b : BitVec 3) (g : BitVec 2) (ch v : Nibble) : (s.writeChar b g ch v).sp = s.sp := rfl
@[simp] theorem State.writeChar_cmd (b : BitVec 3) (g : BitVec 2) (ch v : Nibble) : (s.writeChar b g ch v).cmd = s.cmd := rfl
@[simp] theorem State.writeChar_cm (b : BitVec 3) (g : BitVec 2) (ch v : Nibble) : (s.writeChar b g ch v).cm = s.cm := rfl
@[simp] theorem State.writeChar_rom (b : BitVec 3) (g : BitVec 2) (ch v : Nibble) : (s.writeChar b g ch v).rom = s.rom := rfl
@[simp] theorem State.writeChar_ram (b : BitVec 3) (g : BitVec 2) (ch v : Nibble) : (s.writeChar b g ch v).ram = s.ram.write (ramIndex b g ch) v := rfl
@[simp] theorem State.writeChar_status (b : BitVec 3) (g : BitVec 2) (ch v : Nibble) : (s.writeChar b g ch v).status = s.status := rfl
@[simp] theorem State.writeChar_port (b : BitVec 3) (g : BitVec 2) (ch v : Nibble) : (s.writeChar b g ch v).port = s.port := rfl
@[simp] theorem State.writeChar_err (b : BitVec 3) (g : BitVec 2) (ch v : Nibble) : (s.writeChar b g ch v).err = s.err := rfl
@[simp] theorem State.writeChar_cyc (b : BitVec 3) (g : BitVec 2) (ch v : Nibble) : (s.writeChar b g ch v).cyc = s.cyc := rfl
@[simp] theorem State.writeChar_sched (b : BitVec 3) (g : BitVec 2) (ch v : Nibble) : (s.writeChar b g ch v).sched = s.sched := rfl
@[simp] theorem State.writeChar_active (b : BitVec 3) (g : BitVec 2) (ch v : Nibble) : (s.writeChar b g ch v).active = s.active := rfl
@[simp] theorem State.writeChar_diag (b : BitVec 3) (g : BitVec 2) (ch v : Nibble) : (s.writeChar b g ch v).diag = s.diag := rfl

/-! `writeStatus` -/

@[simp] theorem State.writeStatus_a (b : BitVec 3) (g i : BitVec 2) (v : Nibble) : (s.writeStatus b g i v).a = s.a := rfl
@[simp] theorem State.writeStatus_c (b : BitVec 3) (g i : BitVec 2) (v : Nibble) : (s.writeStatus b g i v).c = s.c := rfl
@[simp] theorem State.writeStatus_t (b : BitVec 3) (g i : BitVec 2) (v : Nibble) : (s.writeStatus b g i v).t = s.t := rfl
@[simp] theorem State.writeStatus_tm (b : BitVec 3) (g i : BitVec 2) (v : Nibble) : (s.writeStatus b g i v).tm = s.tm := rfl
@[simp] theorem State.writeStatus_x (b : BitVec 3) (g i : BitVec 2) (v : Nibble) : (s.writeStatus b g i v).x = s.x := rfl
@[simp] theorem State.writeStatus_pcs (b : BitVec 3) (g i : BitVec 2) (v : Nibble) : (s.writeStatus b g i v).pcs = s.pcs := rfl
@[simp] theorem State.writeStatus_sp (b : BitVec 3) (g i : BitVec 2) (v : Nibble) : (s.writeStatus b g i v).sp = s.sp := rfl
@[simp] theorem State.writeStatus_cmd (b : BitVec 3) (g i : BitVec 2) (v : Nibble) : (s.writeStatus b g i v).cmd = s.cmd := rfl
@[simp] theorem State.writeStatus_cm (b : BitVec 3) (g i : BitVec 2) (v : Nibble) : (s.writeStatus b g i v).cm = s.cm := rfl
@[simp] theorem State.writeStatus_rom (b : BitVec 3) (g i : BitVec 2) (v : Nibble) : (s.writeStatus b g i v).rom = s.rom := rfl
@[simp] theorem State.writeStatus_ram (b : BitVec 3) (g i : BitVec 2) (v : Nibble) : (s.writeStatus b g i v).ram = s.ram := rfl
@[simp] theorem State.writeStatus_status (b : BitVec 3) (g i : BitVec 2) (v : Nibble) : (s.writeStatus b g i v).status = s.status.write (statusIndex b g i) v := rfl
@[simp] theorem State.writeStatus_port (b : BitVec 3) (g i : BitVec 2) (v : Nibble) : (s.writeStatus b g i v).port = s.port := rfl
@[simp] theorem State.writeStatus_err (b : BitVec 3) (g i : BitVec 2) (v : Nibble) : (s.writeStatus b g i v).err = s.err := rfl
@[simp] theorem State.writeStatus_cyc (b : BitVec 3) (g i : BitVec 2) (v : Nibble) : (s.writeStatus b g i v).cyc = s.cyc := rfl
@[simp] theorem State.writeStatus_sched (b : BitVec 3) (g i : BitVec 2) (v : Nibble) : (s.writeStatus b g i v).sched = s.sched := rfl
@[simp] theorem State.writeStatus_active (b : BitVec 3) (g i : BitVec 2) (v : Nibble) : (s.writeStatus b g i v).active = s.active := rfl
@[simp] theorem State.writeStatus_diag (b : BitVec 3) (g i : BitVec 2) (v : Nibble) : (s.writeStatus b g i v).diag = s.diag := rfl

/-! `writePort` -/

@[simp] theorem State.writePort_a (b : BitVec 3) (v : Nibble) : (s.writePort b v).a = s.a := rfl
@[simp] theorem State.writePort_c (b : BitVec 3) (v : Nibble) : (s.writePort b v).c = s.c := rfl
@[simp] theorem State.writePort_t (b : BitVec 3) (v : Nibble) : (s.writePort b v).t = s.t := rfl
@[simp] theorem State.writePort_tm (b : BitVec 3) (v : Nibble) : (s.writePort b v).tm = s.tm := rfl
@[simp] theorem State.writePort_x (b : BitVec 3) (v : Nibble) : (s.writePort b v).x = s.x := rfl
@[simp] theorem State.writePort_pcs (b : BitVec 3) (v : Nibble) : (s.writePort b v).pcs = s.pcs := rfl
@[simp] theorem State.writePort_sp (b : BitVec 3) (v : Nibble) : (s.writePort b v).sp = s.sp := rfl
@[simp] theorem State.writePort_cmd (b : BitVec 3) (v : Nibble) : (s.writePort b v).cmd = s.cmd := rfl
@[simp] theorem State.writePort_cm (b : BitVec 3) (v : Nibble) : (s.writePort b v).cm = s.cm := rfl
@[simp] theorem State.writePort_rom (b : BitVec 3) (v : Nibble) : (s.writePort b v).rom = s.rom := rfl
@[simp] theorem State.writePort_ram (b : BitVec 3) (v : Nibble) : (s.writePort b v).ram = s.ram := rfl
@[simp] theorem State.writePort_status (b : BitVec 3) (v : Nibble) : (s.writePort b v).status = s.status := rfl
@[simp] theorem State.writePort_port (b : BitVec 3) (v : Nibble) : (s.writePort b v).port = s.port.write b.toNat v := rfl
@[simp] theorem State.writePort_err (b : BitVec 3) (v : Nibble) : (s.writePort b v).err = s.err := rfl
@[simp] theorem State.writePort_cyc (b : BitVec 3) (v : Nibble) : (s.writePort b v).cyc = s.cyc := rfl
@[simp] theorem State.writePort_sched (b : BitVec 3) (v : Nibble) : (s.writePort b v).sched = s.sched := rfl
@[simp] theorem State.writePort_active (b : BitVec 3) (v : Nibble) : (s.writePort b v).active = s.active := rfl
@[simp] theorem State.writePort_diag (b : BitVec 3) (v : Nibble) : (s.writePort b v).diag = s.diag := rfl

/-! `raise` -/

@[simp] theorem State.raise_a (k : DiagKind) (p : Addr) (o : Byte) : (s.raise k p o).a = s.a := rfl
@[simp] theorem State.raise_c (k : DiagKind) (p : Addr) (o : Byte) : (s.raise k p o).c = s.c := rfl
@[simp] theorem State.raise_t (k : DiagKind) (p : Addr) (o : Byte) : (s.raise k p o).t = s.t := rfl
@[simp] theorem State.raise_tm (k : DiagKind) (p : Addr) (o : Byte) : (s.raise k p o).tm = s.tm := rfl
@[simp] theorem State.raise_x (k : DiagKind) (p : Addr) (o : Byte) : (s.raise k p o).x = s.x := rfl
@[simp] theorem State.raise_pcs (k : DiagKind) (p : Addr) (o : Byte) : (s.raise k p o).pcs = s.pcs := rfl
@[simp] theorem State.raise_sp (k : DiagKind) (p : Addr) (o : Byte) : (s.raise k p o).sp = s.sp := rfl
@[simp] theorem State.raise_cmd (k : DiagKind) (p : Addr) (o : Byte) : (s.raise k p o).cmd = s.cmd := rfl
@[simp] theorem State.raise_cm (k : DiagKind) (p : Addr) (o : Byte) : (s.raise k p o).cm = s.cm := rfl
@[simp] theorem State.raise_rom (k : DiagKind) (p : Addr) (o : Byte) : (s.raise k p o).rom = s.rom := rfl
@[simp] theorem State.raise_ram (k : DiagKind) (p : Addr) (o : Byte) : (s.raise k p o).ram = s.ram := rfl
@[simp] theorem State.raise_status (k : DiagKind) (p : Addr) (o : Byte) : (s.raise k p o).status = s.status := rfl
@[simp] theorem State.raise_port (k : DiagKind) (p : Addr) (o : Byte) : (s.raise k p o).port = s.port := rfl
@[simp] theorem State.raise_err (k : DiagKind) (p : Addr) (o : Byte) : (s.raise k p o).err = s.err.record k := rfl
@[simp] theorem State.raise_cyc (k : DiagKind) (p : Addr) (o : Byte) : (s.raise k p o).cyc = s.cyc := rfl
@[simp] theorem State.raise_sched (k : DiagKind) (p : Addr) (o : Byte) : (s.raise k p o).sched = s.sched := rfl
@[simp] theorem State.raise_active (k : DiagKind) (p : Addr) (o : Byte) : (s.raise k p o).active = s.active := rfl
@[simp] theorem State.raise_diag (k : DiagKind) (p : Addr) (o : Byte) : (s.raise k p o).diag = some ⟨k, p, o⟩ := rfl

/-! `clearDiag` -/

@[simp] theorem State.clearDiag_a : (s.clearDiag).a = s.a := rfl
@[simp] theorem State.clearDiag_c : (s.clearDiag).c = s.c := rfl
@[simp] theorem State.clearDiag_t : (s.clearDiag).t = s.t := rfl
@[simp] theorem State.clearDiag_tm : (s.clearDiag).tm = s.tm := rfl
@[simp] theorem State.clearDiag_x : (s.clearDiag).x = s.x := rfl
@[simp] theorem State.clearDiag_pcs : (s.clearDiag).pcs = s.pcs := rfl
@[simp] theorem State.clearDiag_sp : (s.clearDiag).sp = s.sp := rfl
@[simp] theorem State.clearDiag_cmd : (s.clearDiag).cmd = s.cmd := rfl
@[simp] theorem State.clearDiag_cm : (s.clearDiag).cm = s.cm := rfl
@[simp] theorem State.clearDiag_rom : (s.clearDiag).rom = s.rom := rfl
@[simp] theorem State.clearDiag_ram : (s.clearDiag).ram = s.ram := rfl
@[simp] theorem State.clearDiag_status : (s.clearDiag).status = s.status := rfl
@[simp] theorem State.clearDiag_port : (s.clearDiag).port = s.port := rfl
@[simp] theorem State.clearDiag_err : (s.clearDiag).err = s.err := rfl
@[simp] theorem State.clearDiag_cyc : (s.clearDiag).cyc = s.cyc := rfl
@[simp] theorem State.clearDiag_sched : (s.clearDiag).sched = s.sched := rfl
@[simp] theorem State.clearDiag_active : (s.clearDiag).active = s.active := rfl
@[simp] theorem State.clearDiag_diag : (s.clearDiag).diag = none := rfl

/-! `setSched` -/

@[simp] theorem State.setSched_a (v : Sched) : (s.setSched v).a = s.a := rfl
@[simp] theorem State.setSched_c (v : Sched) : (s.setSched v).c = s.c := rfl
@[simp] theorem State.setSched_t (v : Sched) : (s.setSched v).t = s.t := rfl
@[simp] theorem State.setSched_tm (v : Sched) : (s.setSched v).tm = s.tm := rfl
@[simp] theorem State.setSched_x (v : Sched) : (s.setSched v).x = s.x := rfl
@[simp] theorem State.setSched_pcs (v : Sched) : (s.setSched v).pcs = s.pcs := rfl
@[simp] theorem State.setSched_sp (v : Sched) : (s.setSched v).sp = s.sp := rfl
@[simp] theorem State.setSched_cmd (v : Sched) : (s.setSched v).cmd = s.cmd := rfl
@[simp] theorem State.setSched_cm (v : Sched) : (s.setSched v).cm = s.cm := rfl
@[simp] theorem State.setSched_rom (v : Sched) : (s.setSched v).rom = s.rom := rfl
@[simp] theorem State.setSched_ram (v : Sched) : (s.setSched v).ram = s.ram := rfl
@[simp] theorem State.setSched_status (v : Sched) : (s.setSched v).status = s.status := rfl
@[simp] theorem State.setSched_port (v : Sched) : (s.setSched v).port = s.port := rfl
@[simp] theorem State.setSched_err (v : Sched) : (s.setSched v).err = s.err := rfl
@[simp] theorem State.setSched_cyc (v : Sched) : (s.setSched v).cyc = s.cyc := rfl
@[simp] theorem State.setSched_sched (v : Sched) : (s.setSched v).sched = v := rfl
@[simp] theorem State.setSched_active (v : Sched) : (s.setSched v).active = s.active := rfl
@[simp] theorem State.setSched_diag (v : Sched) : (s.setSched v).diag = s.diag := rfl

/-! `retire` -/

@[simp] theorem State.retire_a (n : Nat) : (s.retire n).a = s.a := rfl
@[simp] theorem State.retire_c (n : Nat) : (s.retire n).c = s.c := rfl
@[simp] theorem State.retire_t (n : Nat) : (s.retire n).t = s.t := rfl
@[simp] theorem State.retire_tm (n : Nat) : (s.retire n).tm = s.tm := rfl
@[simp] theorem State.retire_x (n : Nat) : (s.retire n).x = s.x := rfl
@[simp] theorem State.retire_pcs (n : Nat) : (s.retire n).pcs = s.pcs := rfl
@[simp] theorem State.retire_sp (n : Nat) : (s.retire n).sp = s.sp := rfl
@[simp] theorem State.retire_cmd (n : Nat) : (s.retire n).cmd = s.cmd := rfl
@[simp] theorem State.retire_cm (n : Nat) : (s.retire n).cm = s.cm := rfl
@[simp] theorem State.retire_rom (n : Nat) : (s.retire n).rom = s.rom := rfl
@[simp] theorem State.retire_ram (n : Nat) : (s.retire n).ram = s.ram := rfl
@[simp] theorem State.retire_status (n : Nat) : (s.retire n).status = s.status := rfl
@[simp] theorem State.retire_port (n : Nat) : (s.retire n).port = s.port := rfl
@[simp] theorem State.retire_err (n : Nat) : (s.retire n).err = s.err := rfl
@[simp] theorem State.retire_cyc (n : Nat) : (s.retire n).cyc = s.cyc + n := rfl
@[simp] theorem State.retire_sched (n : Nat) : (s.retire n).sched = s.sched := rfl
@[simp] theorem State.retire_active (n : Nat) : (s.retire n).active = true := rfl
@[simp] theorem State.retire_diag (n : Nat) : (s.retire n).diag = s.diag := rfl

/-! `setAC` -/

@[simp] theorem State.setAC_a (r : Nibble × Bool) : (s.setAC r).a = r.1 := rfl
@[simp] theorem State.setAC_c (r : Nibble × Bool) : (s.setAC r).c = r.2 := rfl
@[simp] theorem State.setAC_t (r : Nibble × Bool) : (s.setAC r).t = s.t := rfl
@[simp] theorem State.setAC_tm (r : Nibble × Bool) : (s.setAC r).tm = s.tm := rfl
@[simp] theorem State.setAC_x (r : Nibble × Bool) : (s.setAC r).x = s.x := rfl
@[simp] theorem State.setAC_pcs (r : Nibble × Bool) : (s.setAC r).pcs = s.pcs := rfl
@[simp] theorem State.setAC_sp (r : Nibble × Bool) : (s.setAC r).sp = s.sp := rfl
@[simp] theorem State.setAC_cmd (r : Nibble × Bool) : (s.setAC r).cmd = s.cmd := rfl
@[simp] theorem State.setAC_cm (r : Nibble × Bool) : (s.setAC r).cm = s.cm := rfl
@[simp] theorem State.setAC_rom (r : Nibble × Bool) : (s.setAC r).rom = s.rom := rfl
@[simp] theorem State.setAC_ram (r : Nibble × Bool) : (s.setAC r).ram = s.ram := rfl
@[simp] theorem State.setAC_status (r : Nibble × Bool) : (s.setAC r).status = s.status := rfl
@[simp] theorem State.setAC_port (r : Nibble × Bool) : (s.setAC r).port = s.port := rfl
@[simp] theorem State.setAC_err (r : Nibble × Bool) : (s.setAC r).err = s.err := rfl
@[simp] theorem State.setAC_cyc (r : Nibble × Bool) : (s.setAC r).cyc = s.cyc := rfl
@[simp] theorem State.setAC_sched (r : Nibble × Bool) : (s.setAC r).sched = s.sched := rfl
@[simp] theorem State.setAC_active (r : Nibble × Bool) : (s.setAC r).active = s.active := rfl
@[simp] theorem State.setAC_diag (r : Nibble × Bool) : (s.setAC r).diag = s.diag := rfl

/-! `setSlot` -/

@[simp] theorem State.setSlot_a (i : Nat) (p : Addr) : (s.setSlot i p).a = s.a := rfl
@[simp] theorem State.setSlot_c (i : Nat) (p : Addr) : (s.setSlot i p).c = s.c := rfl
@[simp] theorem State.setSlot_t (i : Nat) (p : Addr) : (s.setSlot i p).t = s.t := rfl
@[simp] theorem State.setSlot_tm (i : Nat) (p : Addr) : (s.setSlot i p).tm = s.tm := rfl
@[simp] theorem State.setSlot_x (i : Nat) (p : Addr) : (s.setSlot i p).x = s.x := rfl
@[simp] theorem State.setSlot_pcs (i : Nat) (p : Addr) : (s.setSlot i p).pcs = s.pcs.setIfInBounds i p := rfl
@[simp] theorem State.setSlot_sp (i : Nat) (p : Addr) : (s.setSlot i p).sp = s.sp := rfl
@[simp] theorem State.setSlot_cmd (i : Nat) (p : Addr) : (s.setSlot i p).cmd = s.cmd := rfl
@[simp] theorem State.setSlot_cm (i : Nat) (p : Addr) : (s.setSlot i p).cm = s.cm := rfl
@[simp] theorem State.setSlot_rom (i : Nat) (p : Addr) : (s.setSlot i p).rom = s.rom := rfl
@[simp] theorem State.setSlot_ram (i : Nat) (p : Addr) : (s.setSlot i p).ram = s.ram := rfl
@[simp] theorem State.setSlot_status (i : Nat) (p : Addr) : (s.setSlot i p).status = s.status := rfl
@[simp] theorem State.setSlot_port (i : Nat) (p : Addr) : (s.setSlot i p).port = s.port := rfl
@[simp] theorem State.setSlot_err (i : Nat) (p : Addr) : (s.setSlot i p).err = s.err := rfl
@[simp] theorem State.setSlot_cyc (i : Nat) (p : Addr) : (s.setSlot i p).cyc = s.cyc := rfl
@[simp] theorem State.setSlot_sched (i : Nat) (p : Addr) : (s.setSlot i p).sched = s.sched := rfl
@[simp] theorem State.setSlot_active (i : Nat) (p : Addr) : (s.setSlot i p).active = s.active := rfl
@[simp] theorem State.setSlot_diag (i : Nat) (p : Addr) : (s.setSlot i p).diag = s.diag := rfl

end Sys2Proof.Machine
end

