-- ==== Sys2Proof/Laws/Ops.lean ====
section
/-! SUPPORT. One lemma for each shared operation that says what it does in terms of the accessors, and that every memory
operation keeps the canonical form. -/

namespace Sys2Proof.Machine

variable (s : State)

/-! Registers and pairs. -/

theorem State.reg_setReg (r q : RegNo) (v : Nibble) : (s.setReg r v).reg q = if q = r then v else s.reg q := by
  simp only [State.reg, State.setReg, Vector.getElem_set, BitVec.toNat_inj]
  by_cases h : r = q <;> simp [h, eq_comm]

@[simp] theorem State.reg_setReg_same (r : RegNo) (v : Nibble) : (s.setReg r v).reg r = v := by
  simp [State.reg_setReg]

theorem evenReg_ne_oddReg (p q : PairNo) : evenReg p ≠ oddReg q := by
  intro h
  have : (evenReg p).getLsbD 0 = (oddReg q).getLsbD 0 := by rw [h]
  revert this
  simp only [evenReg, oddReg]
  revert p q
  decide

/-- The two nibbles of a byte make the byte. -/
theorem nibbles_append (v : Byte) : v.extractLsb' 4 4 ++ v.extractLsb' 0 4 = v := by
  revert v
  decide

/-- Writing a pair and reading it back (R22). -/
@[simp] theorem State.pair_setPair (p : PairNo) (v : Byte) : (s.setPair p v).pair p = v := by
  simp only [State.pair, State.setPair, State.reg_setReg, evenReg_ne_oddReg, ↓reduceIte]
  exact nibbles_append v

/-- Writing a pair writes its two registers and no other (R22). -/
theorem State.reg_setPair (p : PairNo) (v : Byte) (q : RegNo) :
    (s.setPair p v).reg q
      = if q = oddReg p then v.extractLsb' 0 4 else if q = evenReg p then v.extractLsb' 4 4 else s.reg q := by
  simp only [State.setPair, State.reg_setReg]

theorem State.setPair_eq (p : PairNo) (v : Byte) : s.setPair p v = { s with x := (s.setPair p v).x } := rfl

theorem State.exchange_eq (r : RegNo) :
    s.exchange r = { s with a := s.reg r, x := s.x.set r.toNat s.a r.isLt } := rfl

/-! Program-counter stack. -/

@[simp] theorem State.pc_jump (p : Addr) : (s.jump p).pc = p &&& s.amask := by simp [State.pc]

@[simp] theorem State.pc_advance (n : Addr) : (s.advance n).pc = (s.pc + n) &&& s.amask := by
  simp [State.advance]

@[simp] theorem State.pc_push (p q : Addr) : (s.push p q).pc = p &&& s.amask := rfl

@[simp] theorem State.pc_pop : s.pop.pc = s.pcs[1] := rfl

theorem State.amask_eq : s.amask = if s.tm then 0x0FF else 0xFFF := rfl

/-- Outside test mode the mask changes no address (R27). -/
theorem State.and_amask_normal (h : s.tm = false) (p : Addr) : p &&& s.amask = p := by
  have hm : s.amask = BitVec.allOnes 12 := by simp [State.amask, h]
  rw [hm, BitVec.and_allOnes]

/-! Memory operations keep the canonical form. -/

theorem State.memoryWf_iff :
    s.memoryWf = true ↔ Cells.wf Config.romSize s.rom = true ∧ Cells.wf Config.ramCells s.ram = true
      ∧ Cells.wf Config.statusCells s.status = true ∧ Cells.wf Config.nBanks s.port = true := by
  simp [State.memoryWf, and_assoc]

theorem State.writeRom_memoryWf (p : Addr) (v : Byte) (h : s.memoryWf = true) : (s.writeRom p v).memoryWf = true := by
  rw [State.memoryWf_iff] at h ⊢
  exact ⟨Cells.write_wf _ _ _ _ h.1 p.isLt, h.2⟩

theorem State.writeChar_memoryWf (b : BitVec 3) (g : BitVec 2) (ch v : Nibble) (h : s.memoryWf = true) :
    (s.writeChar b g ch v).memoryWf = true := by
  rw [State.memoryWf_iff] at h ⊢
  exact ⟨h.1, Cells.write_wf _ _ _ _ h.2.1 (ramIndex_lt b g ch), h.2.2⟩

theorem State.writeStatus_memoryWf (b : BitVec 3) (g i : BitVec 2) (v : Nibble) (h : s.memoryWf = true) :
    (s.writeStatus b g i v).memoryWf = true := by
  rw [State.memoryWf_iff] at h ⊢
  exact ⟨h.1, h.2.1, Cells.write_wf _ _ _ _ h.2.2.1 (statusIndex_lt b g i), h.2.2.2⟩

theorem State.writePort_memoryWf (b : BitVec 3) (v : Nibble) (h : s.memoryWf = true) :
    (s.writePort b v).memoryWf = true := by
  rw [State.memoryWf_iff] at h ⊢
  exact ⟨h.1, h.2.1, h.2.2.1, Cells.write_wf _ _ _ _ h.2.2.2 b.isLt⟩

/-! Fetch and step. -/

/-- Every instruction costs at least one cycle (R320). -/
theorem cost_pos (op : Byte) : 1 ≤ cost op := by
  simp only [cost]
  split <;> (try split) <;> decide

@[simp] theorem State.fetch_clearDiag : s.clearDiag.fetch = s.fetch := rfl

/-- What a step is when the fetched instruction answers a next state. -/
theorem step_of_exec {t : State} (h : exec s.fetch s.clearDiag = .next t) :
    step s = .next (t.retire (cost s.fetchOp)) := by
  simp [step, h]

/-- What a step that answers a next state did. -/
theorem exec_of_step {t : State} (h : step s = .next t) :
    ∃ u, exec s.fetch s.clearDiag = .next u ∧ t = u.retire (cost s.fetchOp) := by
  simp only [step] at h
  split at h
  · next u hu => exact ⟨u, hu, by simpa using h.symm⟩
  · cases h
  · cases h

/-! The scheduler's use of a step. -/

/-- `ExecuteOne` with its return values, when the step answers a next state (R221). -/
theorem executeOne_of_step {t : State} (h : step s = .next t) :
    executeOne s = .next (t, cost s.fetchOp, t.diag) := by
  simp [executeOne, h]

/-- When a command is served (R220). -/
theorem State.commandAllowed_iff : s.commandAllowed = true ↔ s.sched = .stopped ∨ s.sched = .animating := by
  simp [State.commandAllowed]

theorem breakpointHit_iff (bp : List Addr) : breakpointHit bp s = true ↔ s.pcs[0] ∈ bp := by
  simp [breakpointHit, State.pc]

end Sys2Proof.Machine
end

