-- ==== Sys2Proof/Laws/PerInstr.lean ====
section
/-! SUPPORT. Facts about every instruction as syntax, one lemma a constructor. -/

namespace Sys2Proof.Laws.WordLength

/-- The number of bytes of an instruction is the length that R111 gives its opcode byte. -/
def Statement (i : Instr) : Prop := (encode i).length = opLength i.opcodeByte

theorem jcn (c : Nibble) (a : Byte) : Statement (.jcn c a) := by
  revert c
  simp only [Statement, encode, Instr.opcodeByte, Instr.operandByte, List.length]
  decide

theorem fim (p : PairNo) (d : Byte) : Statement (.fim p d) := by
  revert p
  simp only [Statement, encode, Instr.opcodeByte, Instr.operandByte, List.length]
  decide

theorem src (p : PairNo) : Statement (.src p) := by
  revert p
  simp only [Statement, encode, Instr.opcodeByte, Instr.operandByte, List.length]
  decide

theorem fin (p : PairNo) : Statement (.fin p) := by
  revert p
  simp only [Statement, encode, Instr.opcodeByte, Instr.operandByte, List.length]
  decide

theorem jin (p : PairNo) : Statement (.jin p) := by
  revert p
  simp only [Statement, encode, Instr.opcodeByte, Instr.operandByte, List.length]
  decide

theorem jun (h : Nibble) (l : Byte) : Statement (.jun h l) := by
  revert h
  simp only [Statement, encode, Instr.opcodeByte, Instr.operandByte, List.length]
  decide

theorem jms (h : Nibble) (l : Byte) : Statement (.jms h l) := by
  revert h
  simp only [Statement, encode, Instr.opcodeByte, Instr.operandByte, List.length]
  decide

theorem inc (r : RegNo) : Statement (.inc r) := by
  revert r
  simp only [Statement, encode, Instr.opcodeByte, Instr.operandByte, List.length]
  decide

theorem isz (r : RegNo) (a : Byte) : Statement (.isz r a) := by
  revert r
  simp only [Statement, encode, Instr.opcodeByte, Instr.operandByte, List.length]
  decide

theorem add (r : RegNo) : Statement (.add r) := by
  revert r
  simp only [Statement, encode, Instr.opcodeByte, Instr.operandByte, List.length]
  decide

theorem sub (r : RegNo) : Statement (.sub r) := by
  revert r
  simp only [Statement, encode, Instr.opcodeByte, Instr.operandByte, List.length]
  decide

theorem ld (r : RegNo) : Statement (.ld r) := by
  revert r
  simp only [Statement, encode, Instr.opcodeByte, Instr.operandByte, List.length]
  decide

theorem xch (r : RegNo) : Statement (.xch r) := by
  revert r
  simp only [Statement, encode, Instr.opcodeByte, Instr.operandByte, List.length]
  decide

theorem bbl (d : Nibble) : Statement (.bbl d) := by
  revert d
  simp only [Statement, encode, Instr.opcodeByte, Instr.operandByte, List.length]
  decide

theorem ldm (d : Nibble) : Statement (.ldm d) := by
  revert d
  simp only [Statement, encode, Instr.opcodeByte, Instr.operandByte, List.length]
  decide

theorem wrm : Statement (.wrm) := rfl

theorem wmp : Statement (.wmp) := rfl

theorem wr0 : Statement (.wr0) := rfl

theorem wr1 : Statement (.wr1) := rfl

theorem wr2 : Statement (.wr2) := rfl

theorem wr3 : Statement (.wr3) := rfl

theorem rdm : Statement (.rdm) := rfl

theorem rd0 : Statement (.rd0) := rfl

theorem rd1 : Statement (.rd1) := rfl

theorem rd2 : Statement (.rd2) := rfl

theorem rd3 : Statement (.rd3) := rfl

theorem clb : Statement (.clb) := rfl

theorem iac : Statement (.iac) := rfl

theorem cmc : Statement (.cmc) := rfl

theorem cma : Statement (.cma) := rfl

theorem ral : Statement (.ral) := rfl

theorem rar : Statement (.rar) := rfl

theorem tcc : Statement (.tcc) := rfl

theorem dac : Statement (.dac) := rfl

theorem tcs : Statement (.tcs) := rfl

theorem stc : Statement (.stc) := rfl

theorem daa : Statement (.daa) := rfl

theorem kbp : Statement (.kbp) := rfl

theorem dcl : Statement (.dcl) := rfl

theorem unimpl0x (x : Nibble) : Statement (.unimpl0x x) := by
  revert x
  simp only [Statement, encode, Instr.opcodeByte, Instr.operandByte, List.length]
  decide

theorem unimplE2 : Statement (.unimplE2) := rfl

theorem unimplE3 : Statement (.unimplE3) := rfl

theorem unimplE8 : Statement (.unimplE8) := rfl

theorem unimplEA : Statement (.unimplEA) := rfl

theorem unimplEB : Statement (.unimplEB) := rfl

theorem unimplF1 : Statement (.unimplF1) := rfl

theorem unimplFE : Statement (.unimplFE) := rfl

theorem unimplFF : Statement (.unimplFF) := rfl

end Sys2Proof.Laws.WordLength
end

