-- ==== Sys2Proof/Laws/Safety.lean ====
section
/-! SUPPORT. The terms of claims (Safety.lean) in terms of the machine's operations. -/

namespace Sys2Proof.Safety

open Sys2Proof.Machine

variable (s : State)

theorem slot0_eq (v : Addr) : slot0 s v = s.pcs.set 0 (v &&& s.amask) := rfl

theorem jump_eq (v : Addr) : s.jump v = { s with pcs := slot0 s v } := rfl

theorem advance_eq (n : Addr) : s.advance n = { s with pcs := slot0 s (s.pcs[0] + n) } := rfl

theorem regAt_toNat (r : RegNo) : regAt s r.toNat = s.reg r := by
  have h : r.toNat < 16 := r.isLt
  simp [regAt, State.reg, h]

theorem evenReg_toNat (p : PairNo) : (evenReg p).toNat = 2 * p.toNat := by
  revert p
  decide

theorem oddReg_toNat (p : PairNo) : (oddReg p).toNat = 2 * p.toNat + 1 := by
  revert p
  decide

theorem regAt_even (p : PairNo) : regAt s (2 * p.toNat) = s.reg (evenReg p) := by
  rw [← evenReg_toNat, regAt_toNat]

theorem regAt_odd (p : PairNo) : regAt s (2 * p.toNat + 1) = s.reg (oddReg p) := by
  rw [← oddReg_toNat, regAt_toNat]

/-- The bits of the page mask. -/
theorem pageMask_bit (j : Nat) : (0xF00 : Addr).getLsbD j = (decide (8 ≤ j) && decide (j < 12)) := by
  by_cases h : j < 12
  · have : ∀ k : Fin 12, (0xF00 : Addr).getLsbD k = (decide (8 ≤ k.val) && decide (k.val < 12)) := by decide
    exact this ⟨j, h⟩
  · rw [BitVec.getLsbD_of_ge _ j (by omega)]
    simp [h]

/-- An in-page address is the page's four bits and the byte (R103, R140 b). -/
theorem inPage_eq (pc : Addr) (b : Byte) : inPage pc b = inPageOf pc b := by
  apply BitVec.eq_of_getLsbD_eq
  intro i hi
  rw [inPage, inPageOf, BitVec.getLsbD_or, BitVec.getLsbD_and, pageMask_bit, BitVec.getLsbD_append,
    BitVec.getLsbD_setWidth, BitVec.getLsbD_extractLsb']
  by_cases h : i < 8
  · simp [h, hi]
  · have h8 : 8 ≤ i := by omega
    have h4 : i - 8 < 4 := by omega
    have he : 8 + (i - 8) = i := by omega
    simp [h, hi, h8, h4, he]

/-- A full address as a number: 256 times the page plus the low byte (R103). -/
theorem fullAddr_eq (h : Nibble) (l : Byte) : fullAddr h l = BitVec.ofNat 12 (h.toNat * 256 + l.toNat) := by
  apply BitVec.eq_of_toNat_eq
  simp only [fullAddr, BitVec.toNat_append, BitVec.toNat_ofNat]
  rw [← Nat.shiftLeft_add_eq_or_of_lt l.isLt]
  simp only [Nat.shiftLeft_eq]
  have := h.isLt
  have := l.isLt
  omega

theorem setReg_eq (r : RegNo) (v : Nibble) : s.setReg r v = { s with x := s.x.setIfInBounds r.toNat v } := by
  have h : s.x.set r.toNat v r.isLt = s.x.setIfInBounds r.toNat v := by
    ext i hi
    simp [Vector.getElem_set, Vector.getElem_setIfInBounds]
  simp [State.setReg, h]

theorem setPair_eq (p : PairNo) (v : Byte) :
    s.setPair p v = { s with
      x := (s.x.setIfInBounds (2 * p.toNat) (v.extractLsb' 4 4)).setIfInBounds (2 * p.toNat + 1) (v.extractLsb' 0 4) } := by
  rw [State.setPair, setReg_eq, setReg_eq, evenReg_toNat, oddReg_toNat]

@[simp] theorem executeMany_zero : executeMany 0 s = .next (s, 0, []) := rfl

/-- One more `ExecuteOne` after `n` of them: its cost and its diagnostic are added at the end. -/
theorem executeMany_succ {n c : Nat} {u t : State} {ds : List Diagnostic}
    (hm : executeMany n s = .next (u, c, ds)) (ht : step u = .next t) :
    executeMany (n + 1) s = .next (t, c + cost u.fetchOp, ds ++ t.diag.toList) := by
  simp [executeMany, hm, ht]

end Sys2Proof.Safety
end

