-- ==== Sys2Proof/Tests/Slice0.lean ====
section
/-! SUPPORT. Tests of the model. Words are written out from spec/30_encoding.md; expected results are those of
spec/95_test_vectors.md, whose entry each comment names. `test_witness_…` theorems show that the hypotheses of an obligation
can be met. -/

namespace Sys2Proof.Tests

open Sys2Proof.Machine Sys2Proof.Safety

/-- What `f` sees after one step of the instruction word `w` placed where `s` fetches. -/
def runs {α : Type} (s : State) (nbits w : Nat) (f : State → α) : Option α :=
  match step (s.withFetchWord nbits w) with
  | .next t => some (f t)
  | _ => none

/-- What `f` sees after one instruction performed alone. -/
def does {α : Type} (i : Instr) (s : State) (f : State → α) : Option α :=
  match exec i s with
  | .next t => some (f t)
  | _ => none

/-- What `f` sees after a request, and the answer. -/
def serves {α : Type} (req : Request) (s : State) (f : State → α) : Option (α × Response) :=
  match serve req s with
  | .next (t, r) => some (f t, r)
  | _ => none

/-- The reset state with the program counter at `pc`. -/
def at' (pc : Addr) : State := { State.reset with pcs := #v[pc, 0, 0, 0] }

/-- The reset state with accumulator `a` and carry `c`. -/
def acc (a : Nibble) (c : Bool) : State := { State.reset with a := a, c := c }

/-- The accumulator, the carry and the program counter. -/
def acp (t : State) : Nibble × Bool × Addr := (t.a, t.c, t.pcs[0])

/-- The program counter, the depth and the older slots. -/
def stack (t : State) : List Addr × BitVec 2 := (t.pcs.toList, t.sp)

/-! Decoding, a word for each constructor: bits 7 to 0 are the opcode byte, bits 15 to 8 the operand byte (R101, R102). -/

theorem test_decode_jcn : decodeTableWord 16 0b0010_0000_0001_1100 = some (.jcn 0xC 0x20) := by decide
theorem test_decode_fim : decodeTableWord 16 0b1001_0101_0010_0100 = some (.fim 2 0x95) := by decide
theorem test_decode_src : decodeTableWord 8 0b0010_0101 = some (.src 2) := by decide
theorem test_decode_fin : decodeTableWord 8 0b0011_0110 = some (.fin 3) := by decide
theorem test_decode_jin : decodeTableWord 8 0b0011_1111 = some (.jin 7) := by decide
theorem test_decode_jun : decodeTableWord 16 0b1011_1100_0100_1010 = some (.jun 0xA 0xBC) := by decide
theorem test_decode_jms : decodeTableWord 16 0b0010_0011_0101_0001 = some (.jms 1 0x23) := by decide
theorem test_decode_inc : decodeTableWord 8 0b0110_0111 = some (.inc 7) := by decide
theorem test_decode_isz : decodeTableWord 16 0b1000_0000_0111_0010 = some (.isz 2 0x80) := by decide
theorem test_decode_add : decodeTableWord 8 0b1000_0101 = some (.add 5) := by decide
theorem test_decode_sub : decodeTableWord 8 0b1001_0010 = some (.sub 2) := by decide
theorem test_decode_ld : decodeTableWord 8 0b1010_0011 = some (.ld 3) := by decide
theorem test_decode_xch : decodeTableWord 8 0b1011_1001 = some (.xch 9) := by decide
theorem test_decode_bbl : decodeTableWord 8 0b1100_0101 = some (.bbl 5) := by decide
theorem test_decode_ldm : decodeTableWord 8 0b1101_1010 = some (.ldm 10) := by decide

/-- The memory and port group (R106, R109). -/
theorem test_decode_memory_group :
    decodeTableWord 8 0b1110_0000 = some .wrm
      ∧ decodeTableWord 8 0b1110_0001 = some .wmp
      ∧ decodeTableWord 8 0b1110_0010 = some .unimplE2
      ∧ decodeTableWord 8 0b1110_0011 = some .unimplE3
      ∧ decodeTableWord 8 0b1110_0100 = some .wr0
      ∧ decodeTableWord 8 0b1110_0101 = some .wr1
      ∧ decodeTableWord 8 0b1110_0110 = some .wr2
      ∧ decodeTableWord 8 0b1110_0111 = some .wr3
      ∧ decodeTableWord 8 0b1110_1000 = some .unimplE8
      ∧ decodeTableWord 8 0b1110_1001 = some .rdm
      ∧ decodeTableWord 8 0b1110_1010 = some .unimplEA
      ∧ decodeTableWord 8 0b1110_1011 = some .unimplEB
      ∧ decodeTableWord 8 0b1110_1100 = some .rd0
      ∧ decodeTableWord 8 0b1110_1101 = some .rd1
      ∧ decodeTableWord 8 0b1110_1110 = some .rd2
      ∧ decodeTableWord 8 0b1110_1111 = some .rd3 := by decide

/-- The accumulator group (R107, R109). -/
theorem test_decode_accumulator_group :
    decodeTableWord 8 0b1111_0000 = some .clb
      ∧ decodeTableWord 8 0b1111_0001 = some .unimplF1
      ∧ decodeTableWord 8 0b1111_0010 = some .iac
      ∧ decodeTableWord 8 0b1111_0011 = some .cmc
      ∧ decodeTableWord 8 0b1111_0100 = some .cma
      ∧ decodeTableWord 8 0b1111_0101 = some .ral
      ∧ decodeTableWord 8 0b1111_0110 = some .rar
      ∧ decodeTableWord 8 0b1111_0111 = some .tcc
      ∧ decodeTableWord 8 0b1111_1000 = some .dac
      ∧ decodeTableWord 8 0b1111_1001 = some .tcs
      ∧ decodeTableWord 8 0b1111_1010 = some .stc
      ∧ decodeTableWord 8 0b1111_1011 = some .daa
      ∧ decodeTableWord 8 0b1111_1100 = some .kbp
      ∧ decodeTableWord 8 0b1111_1101 = some .dcl
      ∧ decodeTableWord 8 0b1111_1110 = some .unimplFE
      ∧ decodeTableWord 8 0b1111_1111 = some .unimplFF := by decide

theorem test_decode_unimpl0x :
    decodeTableWord 8 0b0000_0000 = some (.unimpl0x 0) ∧ decodeTableWord 8 0b0000_1111 = some (.unimpl0x 15) := by decide

/-- A byte list that ends too early is rejected by name. -/
theorem test_decode_rejects :
    (match decode [] with | .error e => decide (e = .noOpcodeByte) | .ok _ => false) = true
      ∧ (match decode [0x14] with | .error e => decide (e = .noOperandByte 0x14) | .ok _ => false) = true := by decide

/-! Ill-formed requests: one for each check (R233, U9). -/

theorem test_illformed_index :
    (∀ cell ∈ [CellName.x 16, .pair 8, .pcs 4, .ram 8 0 0, .ram 0 4 0, .ram 0 0 16, .status 8 0 0, .status 0 4 0,
        .status 0 0 4, .port 8, .rom 4096],
      (Request.peek cell).wellFormed = false ∧ (Request.poke cell 1).wellFormed = false
        ∧ serves (.poke cell 1) State.reset id = some (State.reset, .refused)) := by decide

theorem test_illformed_no_setter :
    (∀ cell ∈ [CellName.t, .tm, .sp, .cmd, .cm, .rom 0, .err, .cyc, .sched, .active],
      (Request.poke cell 1).wellFormed = false ∧ (Request.peek cell).wellFormed = true
        ∧ serves (.poke cell 1) State.reset id = some (State.reset, .refused)) := by decide

theorem test_wellformed_boundary :
    (∀ cell ∈ [CellName.x 15, .pair 7, .pcs 3, .ram 7 3 15, .status 7 3 3, .port 7],
      (Request.poke cell 1).wellFormed = true) := by decide

/-! Control flow (section 3.1). -/

/-- CF1 and CF2. -/
theorem test_jcn_page_end :
    runs (at' 0x1FE) 16 0x2014 (·.pcs[0]) = some 0x120
      ∧ runs { at' 0x1FE with a := 1 } 16 0x2014 (·.pcs[0]) = some 0x200 := by decide

/-- Row `c = 11` of the JCN table: jumps only where neither carry nor test is set. -/
theorem test_jcn_invert :
    runs { at' 0x100 with a := 7 } 16 0x201B (·.pcs[0]) = some 0x120
      ∧ runs { at' 0x100 with a := 7, t := true } 16 0x201B (·.pcs[0]) = some 0x102 := by decide

/-- CF6 and CF8. -/
theorem test_jin :
    runs (((at' 0x305).setReg 4 10).setReg 5 7) 8 0x35 (·.pcs[0]) = some 0x3A7
      ∧ runs ({ ((at' 0x010).setReg 14 15).setReg 15 14 with tm := true }) 8 0x3F (·.pcs[0]) = some 0x0FE := by decide

/-- CF9 and CF10. -/
theorem test_jun :
    runs State.reset 16 0xBC4A (·.pcs[0]) = some 0xABC
      ∧ runs { State.reset with tm := true } 16 0xBC4A (·.pcs[0]) = some 0x0BC := by decide

/-- CF12: a call with one free level. -/
theorem test_jms_call :
    runs { State.reset with sp := 2, pcs := #v[0x200, 0x111, 0x222, 0] } 16 0x4553 stack
      = some ([0x345, 0x202, 0x111, 0x222], 3) := by decide

/-- CF13: a call at full depth. -/
theorem test_jms_overflow :
    runs { State.reset with sp := 3, pcs := #v[0x200, 0x111, 0x222, 0x333] } 16 0x4553
        (fun t => (stack t, t.err.so, t.diag))
      = some (([0x202, 0x111, 0x222, 0x333], 3), true, some ⟨.stackOverflow, 0x200, 0x53⟩) := by decide

/-- CF20 and CF19. -/
theorem test_isz :
    runs { (at' 0x040).setReg 0 15 with c := true } 16 0x8070 (fun t => (t.reg 0, t.pcs[0], t.c)) = some (0, 0x080, true)
      ∧ runs { (at' 0x040).setReg 0 14 with c := true } 16 0x8070 (fun t => (t.reg 0, t.pcs[0], t.c))
        = some (15, 0x042, true) := by decide

/-- CF22: the target is in the page of the first byte. -/
theorem test_isz_page_end :
    runs ((at' 0x3FE).setReg 1 15) 16 0x1071 (fun t => (t.reg 1, t.pcs[0])) = some (0, 0x310) := by decide

/-- CF16: a return at full depth; CF18: the popped value is not masked. -/
theorem test_bbl_return :
    runs { State.reset with a := 2, sp := 3, pcs := #v[0x400, 0x111, 0x222, 0x333] } 8 0xC9 (fun t => (t.a, stack t))
        = some (9, [0x111, 0x222, 0x333, 0], 2)
      ∧ runs { State.reset with tm := true, sp := 1, pcs := #v[0x040, 0x345, 0, 0] } 8 0xC0 stack
        = some ([0x345, 0, 0, 0], 0) := by decide

/-- CF17: a return at the base. -/
theorem test_bbl_underflow :
    runs { at' 0x400 with a := 2 } 8 0xC9 (fun t => (t.a, stack t, t.err.su, t.diag))
      = some (2, ([0x401, 0, 0, 0], 0), true, some ⟨.stackUnderflow, 0x400, 0xC9⟩) := by decide

/-! Registers and immediates (section 3.2). -/

/-- RI1 and RI3: the operand byte of a FIM at 0xFFF is at 0x000. -/
theorem test_fim :
    runs State.reset 16 0xAB20 (fun t => (t.reg 0, t.reg 1, t.pcs[0])) = some (10, 11, 2)
      ∧ runs (at' 0xFFF) 16 0x5C22 (fun t => (t.reg 2, t.reg 3, t.pcs[0])) = some (5, 12, 1) := by decide

/-- RI4. -/
theorem test_src :
    runs ((State.reset.setReg 0 12).setReg 1 3) 8 0x21 (fun t => (t.cmd, t.pcs[0])) = some (0xC3, 1) := by decide

/-- RI7 and RI8: the destination is the address pair; the page is the instruction's own. -/
theorem test_fin :
    runs (((at' 0x210).setReg 0 4).writeRom 0x240 0xB7) 8 0x30 (fun t => (t.reg 0, t.reg 1, t.pcs[0])) = some (11, 7, 0x211)
      ∧ runs ((((at' 0x1FF).setReg 1 5).writeRom 0x105 0x6D).writeRom 0x205 0x11) 8 0x32
          (fun t => (t.reg 2, t.reg 3, t.pcs[0])) = some (6, 13, 0x200) := by decide

/-- RI10. -/
theorem test_inc : runs (State.reset.setReg 7 15) 8 0x67 (fun t => (t.reg 7, t.c, t.pcs[0])) = some (0, false, 1) := by decide

/-- RI12. -/
theorem test_ld : runs ((acc 1 true).setReg 3 12) 8 0xA3 (fun t => (acp t, t.reg 3)) = some ((12, true, 1), 12) := by decide

/-- RI13. -/
theorem test_xch : runs ((acc 2 false).setReg 9 7) 8 0xB9 (fun t => (t.a, t.reg 9, t.pcs[0])) = some (7, 2, 1) := by decide

/-- RI15. -/
theorem test_ldm : runs (acc 3 true) 8 0xDA acp = some (10, true, 1) := by decide

/-! ADD and SUB (section 3.3, rows 15, 1, 1; 8, 8, 1; 5, 3, 0; 0, 0, 1; and S1). -/

theorem test_add :
    runs ((acc 15 true).setReg 1 1) 8 0x81 acp = some (1, true, 1)
      ∧ runs ((acc 3 false).setReg 5 5) 8 0x85 (fun t => (acp t, t.reg 5)) = some ((8, false, 1), 5) := by decide

theorem test_sub :
    runs ((acc 5 false).setReg 1 3) 8 0x91 acp = some (2, true, 1)
      ∧ runs ((acc 0 true).setReg 1 0) 8 0x91 acp = some (15, false, 1) := by decide

/-! Data memory and ports (section 3.4). -/

/-- Rows of the `Resolve` table. -/
theorem test_resolve :
    { State.reset with cmd := 0x95 }.resolve = ⟨2, 1, 5⟩ ∧ { State.reset with cmd := 0x95, tm := true }.resolve = ⟨0, 1, 5⟩
      ∧ { State.reset with cmd := 0xFF, cm := 14 }.resolve = ⟨7, 3, 15⟩
      ∧ { State.reset with cmd := 0xC0, cm := 8, tm := true }.resolve = ⟨1, 0, 0⟩
      ∧ { State.reset with cmd := 0x40, cm := 3 }.resolve = ⟨1, 0, 0⟩ := by decide

/-- M1 and M3. -/
theorem test_wrm :
    runs { State.reset with a := 7, cmd := 0x95 } 8 0xE0 (fun t => (t.readChar 2 1 5, t.pcs[0])) = some (7, 1)
      ∧ runs { State.reset with a := 7, cmd := 0x95, cm := 8 } 8 0xE0 (fun t => (t.readChar 6 1 5, t.readChar 2 1 5))
        = some (7, 0) := by decide

/-- M5 and M6. -/
theorem test_wmp :
    runs { State.reset with a := 10, cmd := 0x4F } 8 0xE1 (fun t => (t.portLatch 1, t.pcs[0])) = some (10, 1)
      ∧ runs { State.reset with a := 10, cmd := 0x80, tm := true } 8 0xE1 (fun t => (t.portLatch 0, t.portLatch 2))
        = some (10, 0) := by decide

/-- M8 to M11. -/
theorem test_wr :
    runs { State.reset with a := 3, cmd := 0x9F } 8 0xE4 (fun t => (t.readStatus 2 1 0, t.pcs[0])) = some (3, 1)
      ∧ runs { State.reset with a := 4, cmd := 0x9F } 8 0xE5 (fun t => (t.readStatus 2 1 1, t.pcs[0])) = some (4, 1)
      ∧ runs { State.reset with a := 5, cmd := 0x9F } 8 0xE6 (fun t => (t.readStatus 2 1 2, t.pcs[0])) = some (5, 1)
      ∧ runs { State.reset with a := 6, cmd := 0x9F } 8 0xE7 (fun t => (t.readStatus 2 1 3, t.pcs[0])) = some (6, 1) := by
  decide

/-- M12 and M13. -/
theorem test_rdm :
    runs (({ State.reset with a := 1, cmd := 0x95 }.writeChar 0 1 5 9).writeChar 2 1 5 7) 8 0xE9 acp = some (7, false, 1)
      ∧ runs (({ State.reset with a := 1, cmd := 0x95, tm := true }.writeChar 0 1 5 9).writeChar 2 1 5 7) 8 0xE9 acp
        = some (9, false, 1) := by decide

/-- The start state of M14 to M17. -/
def statusFilled : State :=
  (((({ State.reset with cmd := 0x95 }.writeStatus 2 1 0 10).writeStatus 2 1 1 11).writeStatus 2 1 2 12).writeStatus 2 1 3 13)

/-- M14 to M17. -/
theorem test_rd :
    runs statusFilled 8 0xEC acp = some (10, false, 1) ∧ runs statusFilled 8 0xED acp = some (11, false, 1)
      ∧ runs statusFilled 8 0xEE acp = some (12, false, 1) ∧ runs statusFilled 8 0xEF acp = some (13, false, 1) := by decide

/-! Accumulator and carry (section 3.5): rows of the two tables. -/

theorem test_clb : runs (acc 15 true) 8 0xF0 acp = some (0, false, 1) := by decide

/-- S2, and the row 0, 1: the old carry does not enter. -/
theorem test_iac : runs (acc 15 false) 8 0xF2 acp = some (0, true, 1) ∧ runs (acc 0 true) 8 0xF2 acp = some (1, false, 1) := by
  decide

theorem test_cmc : runs (acc 7 true) 8 0xF3 acp = some (7, false, 1) ∧ runs (acc 7 false) 8 0xF3 acp = some (7, true, 1) := by
  decide

theorem test_cma : runs (acc 3 true) 8 0xF4 acp = some (12, true, 1) := by decide

theorem test_ral : runs (acc 10 false) 8 0xF5 acp = some (4, true, 1) ∧ runs (acc 5 true) 8 0xF5 acp = some (11, false, 1) := by
  decide

theorem test_rar : runs (acc 5 false) 8 0xF6 acp = some (2, true, 1) ∧ runs (acc 6 true) 8 0xF6 acp = some (11, false, 1) := by
  decide

theorem test_tcc : runs (acc 9 true) 8 0xF7 acp = some (1, false, 1) ∧ runs (acc 9 false) 8 0xF7 acp = some (0, false, 1) := by
  decide

theorem test_dac : runs (acc 0 true) 8 0xF8 acp = some (15, false, 1) ∧ runs (acc 5 false) 8 0xF8 acp = some (4, true, 1) := by
  decide

theorem test_tcs : runs (acc 3 true) 8 0xF9 acp = some (10, false, 1) ∧ runs (acc 3 false) 8 0xF9 acp = some (9, false, 1) := by
  decide

theorem test_stc : runs (acc 8 false) 8 0xFA acp = some (8, true, 1) := by decide

/-- S6. -/
theorem test_daa : runs (acc 10 false) 8 0xFB acp = some (0, true, 1) ∧ runs (acc 5 true) 8 0xFB acp = some (11, false, 1) := by
  decide

theorem test_kbp : runs (acc 8 true) 8 0xFC acp = some (4, true, 1) ∧ runs (acc 3 false) 8 0xFC acp = some (15, false, 1) := by
  decide

/-- S9: the entry 3, and the entry 7 with `A[3]` ignored. -/
theorem test_dcl :
    runs (acc 3 true) 8 0xFD (fun t => (t.cm, acp t)) = some (3, 3, true, 1)
      ∧ runs (acc 15 false) 8 0xFD (fun t => (t.cm, acp t)) = some (14, 15, false, 1) := by decide

/-! Unimplemented bytes (section 3.6). -/

/-- The start state of section 3.6. -/
def atFive : State :=
  { State.reset.setReg 3 7 with a := 9, c := true, sp := 1, pcs := #v[0x005, 0x123, 0, 0], cmd := 0x95 }

/-- Each of the 24 bytes advances, reports and goes on, and nothing else changes. -/
theorem test_unimplemented :
    ∀ op ∈ unimplementedBytes, runs { atFive with rom := [] } 8 op.toNat (fun t => { t with rom := [] })
      = some { atFive with
          pcs := #v[0x006, 0x123, 0, 0], err := ⟨false, false, true⟩, diag := some ⟨.unimplementedOpcode, 0x005, op⟩
          cyc := 1, active := true } := by decide

/-- At the top of ROM the program counter wraps, in test mode within the page. -/
theorem test_unimplemented_wraps :
    runs (at' 0xFFF) 8 0xF1 (·.pcs[0]) = some 0x000 ∧ runs { at' 0x0FF with tm := true } 8 0xFE (·.pcs[0]) = some 0x000 := by
  decide

/-! Scheduler and host (section 3.7). -/

/-- Program P3 loaded. -/
def p3 : State :=
  [0x2E, 0x0C, 0xF2, 0x7F, 0x07, 0x40, 0x02, 0x40, 0x07].foldl
    (fun (q : State × Nat) (b : Byte) => (q.1.writeRom (BitVec.ofNat 12 q.2) b, q.2 + 1)) (State.reset, 0) |>.1

/-- The state after of the H vectors. -/
def seen (t : State) : Addr × Nibble × Nibble × Nat × Sched := (t.pcs[0], t.a, t.reg 15, t.cyc, t.sched)

/-- H1, H3, H4. -/
theorem test_run_budget :
    serves (.run 0 []) p3 seen = some ((0x000, 0, 0, 0, .stopped), .ran ⟨0, 0, [], false⟩)
      ∧ serves (.run 2 []) p3 seen = some ((0x002, 0, 12, 2, .stopped), .ran ⟨2, 1, [], false⟩)
      ∧ serves (.run 3 []) p3 seen = some ((0x003, 1, 12, 3, .stopped), .ran ⟨3, 2, [], false⟩) := by
  refine ⟨?_, ?_, ?_⟩ <;> decide

/-- H7. -/
theorem test_run_breakpoint :
    serves (.run 100 [0x002]) p3 seen = some ((0x002, 0, 12, 2, .stopped), .ran ⟨2, 1, [], true⟩) := by decide

/-- H16. -/
theorem test_tick :
    serves (.tick [0x002]) { p3 with sched := .animating } seen
        = some ((0x002, 0, 12, 2, .stopped), .ticked 2 none true)
      ∧ serves (.tick [0x002]) p3 id = some (p3, .ignored) := by decide

/-- H13 and H14. -/
theorem test_rom_load :
    serves (.romLoad 0x1005 0x1AB) State.reset (fun t => (t.rom.read 0x005, t.active)) = some ((0xAB, false), .done)
      ∧ serves (.romLoad 0x000 0xF0) { p3 with active := true } id = some ({ p3 with active := true }, .refused) := by decide

/-- H15. -/
theorem test_poke :
    serves (.poke .a 0x1F) State.reset (·.a) = some (15, .done) ∧ serves (.poke (.x 3) 16) State.reset (·.reg 3) = some (0, .done)
      ∧ serves (.poke (.pair 2) 0x1A5) State.reset (fun t => (t.reg 4, t.reg 5)) = some ((0xA, 0x5), .done)
      ∧ serves (.poke (.pcs 0) 0x1234) State.reset stack = some (([0x234, 0, 0, 0], 0), .done)
      ∧ serves (.poke .c 2) State.reset (·.c) = some (false, .done)
      ∧ serves (.poke (.ram 7 3 15) 0x3C) State.reset (·.readChar 7 3 15) = some (12, .done)
      ∧ serves (.poke (.ram 8 0 0) 1) State.reset id = some (State.reset, .refused) := by decide

/-- The host port getter of section 3.4. -/
theorem test_peek_port :
    let s := ((State.reset.writePort 0 3).writePort 1 9).writePort 5 12
    serves (.peek (.port 5)) s (fun _ => ()) = some ((), .value (.num 12))
      ∧ serves (.peek (.port 5)) { s with tm := true } (fun _ => ()) = some ((), .value (.num 9)) := by decide

/-- H17. -/
theorem test_test_mode_in :
    serves (.testModeIn 1) (at' 0x345) stack = some (([0x345, 0, 0, 0], 0), .done)
      ∧ runs { at' 0x345 with tm := true } 8 0xF0 (fun t => (t.pcs[0], t.rom)) = some (0x046, [(0x045, 0xF0)]) := by decide

/-- H18, the first step. -/
theorem test_power_on_rom :
    serves .step State.reset (fun t => (t.pcs[0], t.err.un, t.cyc))
      = some ((0x001, true, 1), .stepped 1 (some ⟨.unimplementedOpcode, 0x000, 0x00⟩)) := by decide

/-- S7. -/
theorem test_reset : serves .reset { p3 with a := 7, cmd := 0x95, err := ⟨true, true, true⟩, active := true, cyc := 10 } id
    = some ({ State.reset with rom := p3.rom }, .done) := by decide

/-- The disassembly helper: the row and the fields of `JMS 0x123` (R235). -/
theorem test_disasm :
    serves (.disasm 0x51 0x23) State.reset (fun _ => ())
      = some ((), .row (some ⟨"JMS", 0x50, 0xF0, 2, 2⟩) (.jms 1 0x23)) := by decide

/-! Witnesses for the obligations' hypotheses. -/

/-- A state at full depth in which the invariant holds. -/
def deep : State := { State.reset with sp := 3, pcs := #v[0x030, 0x022, 0x012, 0x002], cm := 14 }

theorem test_witness_UnimplementedBytesAreThe24 :
    (0x00 : Byte) ∈ unimplementedBytes ∧ (0x0F : Byte) ∈ unimplementedBytes ∧ (0xFF : Byte) ∈ unimplementedBytes
      ∧ ¬ (0x10 : Byte) ∈ unimplementedBytes ∧ ¬ (0xFD : Byte) ∈ unimplementedBytes := by decide

theorem test_witness_StackOverflowIsNotFatal :
    deep.sp = 3 ∧ does (.jms 0 0x40) deep (fun t => (t.pcs[0], t.err.so)) = some (0x032, true) := by decide

theorem test_witness_StackUnderflowLeavesTheAccumulator :
    State.reset.sp = 0 ∧ does (.bbl 5) State.reset (fun t => (t.a, t.err.su)) = some (0, true) := by decide

/-- S3. -/
theorem test_witness_CallThenReturnComesBack :
    (at' 0x010).sp ≠ 3 ∧ does (.jms 1 0x23) (at' 0x010) stack = some ([0x123, 0x012, 0, 0], 1)
      ∧ { at' 0x010 with sp := 2 }.sp ≠ 3 := by decide

theorem test_witness_WrmStoresTheCharacter :
    ((7#3, 3#2, 15#4) ≠ (State.reset.resolve.bank, State.reset.resolve.group, State.reset.resolve.char))
      ∧ 511 ≠ ramIndex State.reset.resolve.bank State.reset.resolve.group State.reset.resolve.char := by decide

theorem test_witness_WmpStoresThePort : 7 ≠ State.reset.resolve.bank.toNat := by decide

theorem test_witness_WrStoresItsStatusCharacter :
    (Instr.wr3, 3#2) ∈ [(Instr.wr0, 0#2), (Instr.wr1, 1#2), (Instr.wr2, 2#2), (Instr.wr3, 3#2)]
      ∧ 127 ≠ statusIndex State.reset.resolve.bank State.reset.resolve.group 3 := by decide

theorem test_witness_ReadsLoadTheResolvedCell :
    (Instr.rd0, 0) ∈ [(Instr.rd0, 0), (Instr.rd1, 1), (Instr.rd2, 2), (Instr.rd3, 3)] := by decide

theorem test_witness_UnimplementedBytesGoOn :
    Instr.unimplFF ∈ [Instr.unimpl0x 15, .unimplE2, .unimplE3, .unimplE8, .unimplEA, .unimplEB, .unimplF1, .unimplFE,
      .unimplFF] := by decide

theorem test_witness_CanonicalCellsAreDeterminedByReads :
    let m : Cells 4 := [(0, 5), (15, 1)]
    Cells.wf 16 m = true ∧ Cells.wf 16 ((m.write 3 7).write 3 0) = true
      ∧ ∀ k : Fin 20, m.read k = ((m.write 3 7).write 3 0).read k := by decide

theorem test_witness_CanonicalCells_reads_alike (k : Nat) :
    Cells.read (w := 4) [(0, 5), (15, 1)] k = Cells.read (w := 4) [(0, 5), (15, 1)] k := rfl

theorem test_illformed_cells :
    Cells.wf (w := 4) 16 [(15, 1), (0, 5)] = false ∧ Cells.wf (w := 4) 16 [(3, 1), (3, 5)] = false
      ∧ Cells.wf (w := 4) 16 [(3, 0)] = false ∧ Cells.wf (w := 4) 16 [(16, 1)] = false := by decide

/-- A one-byte and a two-byte instruction at the program counter. -/
theorem test_witness_StepRunsTheDecodedInstruction :
    decode [p3.rom.read (p3.pcs[0] &&& 0xFFF).toNat, p3.rom.read ((p3.pcs[0] + 1) &&& 0xFFF).toNat]
        = .ok (.fim 7 0x0C, [])
      ∧ decode [deep.rom.read (deep.pcs[0] &&& 0xFFF).toNat, deep.rom.read ((deep.pcs[0] + 1) &&& 0xFFF).toNat]
        = .ok (.unimpl0x 0, [0x00]) := ⟨rfl, rfl⟩

theorem test_witness_OthersAdvanceByTheirLength :
    oneOf controlFlow (.fim 7 0x0F) = false ∧ oneOf controlFlow .dcl = false ∧ oneOf controlFlow .unimplFF = false := by decide

/-- An instruction outside each list of writers. -/
theorem test_witness_EachCellHasOnlyItsWriters :
    oneOf accWriters (.inc 0) = false ∧ oneOf carryWriters .cma = false ∧ oneOf regWriters (.ld 0) = false
      ∧ oneOf ["JMS", "BBL"] (.jun 0 0) = false ∧ (Instr.fim 0 0).mnemonic ≠ "SRC" ∧ (Instr.src 0).mnemonic ≠ "DCL"
      ∧ Instr.wmp.mnemonic ≠ "WRM" ∧ Instr.wrm.mnemonic ≠ "WMP" ∧ oneOf ["WR0", "WR1", "WR2", "WR3"] .rd0 = false
      ∧ oneOf (["JMS", "BBL"] ++ unimplementedRows) (.jcn 0 0) = false := by decide

theorem test_witness_OnlyJcnReadsTheTestFlag : (Instr.jin 0).mnemonic ≠ "JCN" := by decide

theorem test_witness_EveryStepKeepsTheInvariant :
    Inv deep ∧ Inv State.reset ∧ (runs deep 8 0xC1 (fun t => decide (Inv t))) = some true
      ∧ ¬ Inv { deep with sp := 2 } ∧ ¬ Inv { deep with cm := 5 } ∧ ¬ Inv { deep with ram := [(512, 1)] } := by decide

theorem test_witness_StepCommandExecutesOneInstruction :
    p3.sched = .stopped ∧ { p3 with sched := .animating }.sched = .animating := by decide

theorem test_witness_TickIsAStepWithABreakpointTest :
    p3.sched ≠ .animating ∧ { p3 with sched := .animating }.sched = .animating
      ∧ serves (.tick [0x003]) { p3 with sched := .animating } seen
        = some ((0x002, 0, 12, 2, .animating), .ticked 2 none false) := by decide

/-- A run of two instructions: `k = 0` and `k = 1` before its end, started on a breakpoint (H8's start, H4's budget). -/
theorem test_witness_RunEndsAtBudgetOrBreakpoint :
    (p3.sched = .stopped ∨ p3.sched = .animating)
      ∧ serves (.run 3 [0x000]) p3 seen = some ((0x003, 1, 12, 3, .stopped), .ran ⟨3, 2, [], false⟩)
      ∧ (match executeMany 1 { p3 with sched := .running } with
        | .next (u, c, ds) => some (u.pcs[0], c, ds)
        | _ => none) = some (0x002, 2, []) := by
  refine ⟨?_, ?_, ?_⟩ <;> decide

/-- H18: the first two diagnostics of a run over unloaded ROM, in order. -/
theorem test_run_diagnostics :
    serves (.run 2 []) State.reset (·.pcs[0])
      = some (0x002, .ran ⟨2, 2, [⟨.unimplementedOpcode, 0x000, 0x00⟩, ⟨.unimplementedOpcode, 0x001, 0x00⟩], false⟩) := by
  decide

theorem test_witness_RomLoadIsGuarded :
    { p3 with active := true }.active = true ∧ p3.active = false ∧ (0xFFF ≠ 0x1005 % 4096) := by decide

theorem test_witness_PokeTouchesOnlySettableCells :
    (CellName.pcs 4).inRange = false ∧ CellName.sp.writable = false
      ∧ ∀ cell ∈ [CellName.a, .c, .x 15, .pair 7, .pcs 3, .ram 7 3 15, .status 7 3 3, .port 7],
          cell.inRange = true ∧ cell.writable = true := by decide

/-- R233: a port is written at the bank named in test mode too, and a pair's setter writes two registers. -/
theorem test_poke_frame :
    serves (.poke (.port 7) 0x1C) { State.reset with tm := true } (·.port) = some ([(7, 12)], .done)
      ∧ serves (.poke (.pair 7) 0x1A5) State.reset id
        = some ({ State.reset with x := #v[0, 0, 0, 0, 0, 0, 0, 0, 0, 0, 0, 0, 0, 0, 0xA, 0x5] }, .done) := by decide

/-- A getter inside and one outside its array, and each setter at the last index of its array. -/
theorem test_witness_PeekAfterPokeShowsTheClampedValue :
    CellName.cm.inRange = true ∧ (CellName.rom 4095).inRange = true ∧ (CellName.rom 4096).inRange = false
      ∧ (∀ cell ∈ [CellName.c, .pair 7, .pcs 3, .a, .x 15, .ram 7 3 15, .status 7 3 3, .port 7], cell.inRange = true)
      ∧ State.reset.tm = false := by decide

/-- R232: getters of cells without a setter. -/
theorem test_peek_readonly :
    serves (.peek .cm) deep (fun t => decide (t = deep)) = some (true, .value (.num 14))
      ∧ serves (.peek .sp) deep (fun t => decide (t = deep)) = some (true, .value (.num 3))
      ∧ serves (.peek (.rom 1)) p3 (fun _ => ()) = some ((), .value (.num 0x0C)) := by decide

theorem test_witness_OnlyResetClearsTheErrorState :
    Request.step ≠ .reset ∧ (Err.mk true false false).bit .stackOverflow = true
      ∧ (serves .step { p3 with err := ⟨true, false, false⟩, active := true } (fun t => (t.err, t.active)))
        = some ((⟨true, false, false⟩, true), .stepped 2 none) := by decide

theorem test_witness_EveryRequestKeepsTheHostInvariant :
    HostInv deep ∧ deep.sched = .stopped
      ∧ serves (.poke (.pcs 3) 0x1FFF) State.reset (fun t => (decide (HostInv t), decide (Inv t)))
        = some ((true, false), .done) := by decide

end Sys2Proof.Tests
end

section
/-! PROOFS. 20_memory.md: what a read of a memory space gives after a write to it (R64, R65). -/

namespace Sys2Proof.Machine

variable (s : State)

/-- A RAM character read after a write: one flat index for one cell (`ramIndex_inj`). -/
theorem State.readChar_writeChar (b b' : BitVec 3) (g g' : BitVec 2) (ch ch' v : Nibble) :
    (s.writeChar b g ch v).readChar b' g' ch'
      = if b' = b ∧ g' = g ∧ ch' = ch then v else s.readChar b' g' ch' := by
  simp only [State.readChar, State.writeChar_ram, Cells.read_write, ramIndex_inj]

/-- A status character read after a write: one flat index for one cell (`statusIndex_inj`). -/
theorem State.readStatus_writeStatus (b b' : BitVec 3) (g g' i i' : BitVec 2) (v : Nibble) :
    (s.writeStatus b g i v).readStatus b' g' i'
      = if b' = b ∧ g' = g ∧ i' = i then v else s.readStatus b' g' i' := by
  simp only [State.readStatus, State.writeStatus_status, Cells.read_write, statusIndex_inj]

/-- A port latch read after a write: a latch is held at its bank's number. -/
theorem State.portLatch_writePort (b b' : BitVec 3) (v : Nibble) :
    (s.writePort b v).portLatch b' = if b' = b then v else s.portLatch b' := by
  simp only [State.portLatch, State.writePort_port, Cells.read_write, BitVec.toNat_inj]

theorem State.writeChar_eq (b : BitVec 3) (g : BitVec 2) (ch v : Nibble) :
    s.writeChar b g ch v = { s with ram := (s.writeChar b g ch v).ram } := rfl

theorem State.writeStatus_eq (b : BitVec 3) (g i : BitVec 2) (v : Nibble) :
    s.writeStatus b g i v = { s with status := (s.writeStatus b g i v).status } := rfl

theorem State.writePort_eq (b : BitVec 3) (v : Nibble) :
    s.writePort b v = { s with port := (s.writePort b v).port } := rfl

/-- Settles O29: for each space, its read-after-write law and its frame. -/
theorem writeChangesTheOneCellNamed : Obligations.WriteChangesTheOneCellNamed := by
  unfold Obligations.WriteChangesTheOneCellNamed
  refine ⟨fun s b b' g g' ch ch' v => ?char, fun s b b' g g' i i' v => ?status, fun s b b' v => ?port⟩
  case char => exact ⟨s.readChar_writeChar b b' g g' ch ch' v, s.writeChar_eq b g ch v⟩
  case status => exact ⟨s.readStatus_writeStatus b b' g g' i i' v, s.writeStatus_eq b g i v⟩
  case port => exact ⟨s.portLatch_writePort b b' v, s.writePort_eq b v⟩

end Sys2Proof.Machine
end

section
/-! PROOFS. 41_register_and_immediate.md: FIM, SRC, INC, XCH and LDM (R151, R152, R154, R156, R157). -/

namespace Sys2Proof.Machine

open Sys2Proof.Safety

variable (s : State)

/-! What each instruction is in terms of the state's operations. -/

theorem exec_fim (p : PairNo) (d : Byte) : exec (.fim p d) s = .next ((s.setPair p d).advance 2) := rfl

theorem exec_src (p : PairNo) : exec (.src p) s = .next ((s.setCmd (s.pair p)).advance 1) := rfl

theorem exec_inc (r : RegNo) : exec (.inc r) s = .next ((s.setReg r (s.reg r + 1)).advance 1) := rfl

theorem exec_xch (r : RegNo) : exec (.xch r) s = .next ((s.exchange r).advance 1) := rfl

theorem exec_ldm (d : Nibble) : exec (.ldm d) s = .next ((s.setA d).advance 1) := rfl

/-! Nibbles, pairs and registers as numbers (R22). -/

theorem extractLsb'_high_eq_ofNat (v : Byte) : v.extractLsb' 4 4 = BitVec.ofNat 4 (v.toNat / 16) := by
  apply BitVec.eq_of_toNat_eq
  simp [Nat.shiftRight_eq_div_pow]

theorem extractLsb'_low_eq_ofNat (v : Byte) : v.extractLsb' 0 4 = BitVec.ofNat 4 (v.toNat % 16) := by
  apply BitVec.eq_of_toNat_eq
  simp

/-- Two nibbles joined: 16 times the first plus the second. -/
theorem append_eq_ofNat (h l : Nibble) : h ++ l = BitVec.ofNat 8 (h.toNat * 16 + l.toNat) := by
  apply BitVec.eq_of_toNat_eq
  have hjoin : (h ++ l).toNat = h.toNat * 16 + l.toNat := by
    rw [BitVec.toNat_append, ← Nat.shiftLeft_add_eq_or_of_lt l.isLt, Nat.shiftLeft_eq]
  have hlt : h.toNat * 16 + l.toNat < 2 ^ 8 := hjoin ▸ (h ++ l).isLt
  rw [hjoin, toNat_ofNat_of_lt hlt]

theorem add_one_eq_ofNat (v : Nibble) : v + 1 = BitVec.ofNat 4 ((v.toNat + 1) % 16) := by
  apply BitVec.eq_of_toNat_eq
  simp

theorem setPair_eq_ofNat (p : PairNo) (v : Byte) :
    s.setPair p v = { s with
      x := (s.x.setIfInBounds (2 * p.toNat) (BitVec.ofNat 4 (v.toNat / 16))).setIfInBounds (2 * p.toNat + 1)
        (BitVec.ofNat 4 (v.toNat % 16)) } := by
  rw [setPair_eq, extractLsb'_high_eq_ofNat, extractLsb'_low_eq_ofNat]

theorem pair_eq_ofNat (p : PairNo) :
    s.pair p = BitVec.ofNat 8 ((regAt s (2 * p.toNat)).toNat * 16 + (regAt s (2 * p.toNat + 1)).toNat) := by
  rw [State.pair, append_eq_ofNat, regAt_even, regAt_odd]

theorem exchange_eq_regAt (r : RegNo) :
    s.exchange r = { s with a := regAt s r.toNat, x := s.x.setIfInBounds r.toNat s.a } := by
  rw [State.exchange, setReg_eq, regAt_toNat]
  rfl

/-- Settles O16: the pair's two nibbles as numbers, then the advance by two bytes. -/
theorem fimLoadsThePair : Obligations.FimLoadsThePair := by
  unfold Obligations.FimLoadsThePair
  intro p d s
  rw [exec_fim, setPair_eq_ofNat, advance_eq]
  rfl

/-- Settles O17: the pair's byte as a number, then the advance by one byte. -/
theorem srcLoadsTheCommand : Obligations.SrcLoadsTheCommand := by
  unfold Obligations.SrcLoadsTheCommand
  intro p s
  rw [exec_src, pair_eq_ofNat, advance_eq]
  rfl

/-- Settles O19: the register's increment as a number modulo 16, then the advance by one byte. -/
theorem incWrapsWithoutCarry : Obligations.IncWrapsWithoutCarry := by
  unfold Obligations.IncWrapsWithoutCarry
  intro r s
  rw [exec_inc, setReg_eq, add_one_eq_ofNat, regAt_toNat, advance_eq]
  rfl

/-- Settles O21: XCH by the one-step exchange (R44), LDM by the write of `A`. -/
theorem xchSwapsAndLdmLoads : Obligations.XchSwapsAndLdmLoads := by
  unfold Obligations.XchSwapsAndLdmLoads
  intro r d s
  refine ⟨?xch, ?ldm⟩
  case xch =>
    rw [exec_xch, exchange_eq_regAt, advance_eq]
    rfl
  case ldm =>
    rw [exec_ldm, advance_eq]
    rfl

end Sys2Proof.Machine
end

section
/-! PROOFS. 42_add_subtract.md: ADD (R161), by the narrowing of an exact five-bit sum (R160 b). -/

namespace Sys2Proof.Machine

open Sys2Proof.Safety

variable (s : State)

theorem exec_add (r : RegNo) :
    exec (.add r) s = .next ((s.setAC (addWithCarry s.a (s.reg r) s.c)).advance 1) := rfl

theorem setAC_eq (r : Nibble × Bool) : s.setAC r = { s with a := r.1, c := r.2 } := rfl

theorem ofNat_four_mod_sixteen (t : Nat) : BitVec.ofNat 4 (t % 16) = BitVec.ofNat 4 t := by
  apply BitVec.eq_of_toNat_eq
  simp

/-- Bit 4 of a five-bit sum is its carry out of the nibble. -/
theorem testBit_four_of_lt {t : Nat} (ht : t < 32) : t.testBit 4 = decide (15 < t) := by
  rw [Nat.testBit_eq_decide_div_mod_eq, decide_eq_decide]
  omega

/-- R160 b as arithmetic: for a sum of five bits, the remainder modulo 16 and whether it exceeds 15. -/
theorem narrow_eq_of_lt {t : Nat} (ht : t < 32) : narrow t = (BitVec.ofNat 4 (t % 16), decide (15 < t)) := by
  rw [narrow, testBit_four_of_lt ht, ofNat_four_mod_sixteen]

/-- Two nibbles and a carry sum to at most 31, so the sum fits the five bits of R160 b. -/
theorem add_carry_lt (a x : Nibble) (c : Bool) : a.toNat + x.toNat + c.toNat < 32 := by
  have ha : a.toNat < 16 := a.isLt
  have hx : x.toNat < 16 := x.isLt
  have hc : c.toNat ≤ 1 := c.toNat_le
  omega

theorem addWithCarry_eq (a x : Nibble) (c : Bool) :
    addWithCarry a x c = (BitVec.ofNat 4 ((a.toNat + x.toNat + c.toNat) % 16),
      decide (15 < a.toNat + x.toNat + c.toNat)) :=
  narrow_eq_of_lt (add_carry_lt a x c)

/-- Settles O22: the exact sum narrowed to `A` and the carry, then the advance by one byte. -/
theorem addSumsWithCarry : Obligations.AddSumsWithCarry := by
  unfold Obligations.AddSumsWithCarry
  intro r s
  rw [exec_add, addWithCarry_eq, setAC_eq, regAt_toNat, advance_eq]
  rfl

end Sys2Proof.Machine
end

section
/-! PROOFS. 44_accumulator.md: CLB, CMC, CMA, TCS and STC (R191, R193, R194, R199, R200), DAA (R201) and KBP (R202). -/

namespace Sys2Proof.Machine

open Sys2Proof.Safety

variable (s : State)

/-! What each instruction is in terms of the state's operations. -/

theorem exec_clb : exec .clb s = .next ((s.setAC (0, false)).advance 1) := rfl

theorem exec_cmc : exec .cmc s = .next ((s.setC (!s.c)).advance 1) := rfl

theorem exec_cma : exec .cma s = .next ((s.setA (~~~s.a)).advance 1) := rfl

theorem exec_tcs : exec .tcs s = .next ((s.setAC (BitVec.ofNat 4 (9 + s.c.toNat), false)).advance 1) := rfl

theorem exec_stc : exec .stc s = .next ((s.setC true).advance 1) := rfl

theorem exec_daa : exec .daa s = .next ((s.setAC (decimalAdjust s.a s.c)).advance 1) := rfl

theorem exec_kbp : exec .kbp s = .next ((s.setA (kbpTable s.a)).advance 1) := rfl

theorem setA_eq (v : Nibble) : s.setA v = { s with a := v } := rfl

theorem setC_eq (v : Bool) : s.setC v = { s with c := v } := rfl

/-! The results as numbers. -/

theorem not_eq_decide_one_sub (c : Bool) : (!c) = decide (1 - c.toNat = 1) := by
  cases c <;> rfl

/-- The complement of a nibble is its difference from 15 (R194). -/
theorem not_eq_ofNat_fifteen_sub (a : Nibble) : ~~~a = BitVec.ofNat 4 (15 - a.toNat) := by
  apply BitVec.eq_of_toNat_eq
  have hlt : 15 - a.toNat < 2 ^ 4 := by omega
  rw [BitVec.toNat_not, toNat_ofNat_of_lt hlt]

theorem ofNat_nine_add_toNat (c : Bool) : BitVec.ofNat 4 (9 + c.toNat) = if c then 10 else 9 := by
  cases c <;> rfl

/-- From 10 on, the sum with 6 passes 15: it leaves `A - 10` and sets the carry (R201). -/
theorem decimalAdjust_of_ten_le {a : Nibble} (h : 10 ≤ a.toNat) (c : Bool) :
    decimalAdjust a c = (BitVec.ofNat 4 (a.toNat - 10), true) := by
  have ha : a.toNat < 16 := a.isLt
  have hcond : 9 < a.toNat ∨ c = true := .inl h
  have hmod : (a.toNat + 6) % 16 = a.toNat - 10 := by omega
  have hcarry : 15 < a.toNat + 6 := by omega
  rw [decimalAdjust, if_pos hcond, narrow_eq_of_lt (by omega), hmod, decide_eq_true hcarry]

/-- Up to 9 with the carry set, the sum with 6 is at most 15: the carry is cleared (R201). -/
theorem decimalAdjust_of_carry {a : Nibble} {c : Bool} (h : ¬ 10 ≤ a.toNat) (hc : c = true) :
    decimalAdjust a c = (BitVec.ofNat 4 (a.toNat + 6), false) := by
  have hcarry : ¬ 15 < a.toNat + 6 := by omega
  rw [decimalAdjust, if_pos (.inr hc), narrow_eq_of_lt (by omega), ofNat_four_mod_sixteen, decide_eq_false hcarry]

theorem decimalAdjust_of_digit {a : Nibble} {c : Bool} (h : ¬ 10 ≤ a.toNat) (hc : ¬ c = true) :
    decimalAdjust a c = (a, c) :=
  if_neg (not_or.mpr ⟨h, hc⟩)

/-- R202's table, entry by entry. -/
theorem kbpTable_eq_getD (a : Nibble) :
    kbpTable a = [0, 1, 2, 15, 3, 15, 15, 15, 4, 15, 15, 15, 15, 15, 15, 15].getD a.toNat 0 := by
  revert a
  decide

/-- Settles O35: the three cases of the decimal adjustment, each followed by the advance by one byte. -/
theorem daaAddsSix : Obligations.DaaAddsSix := by
  unfold Obligations.DaaAddsSix
  intro s
  rw [exec_daa, setAC_eq, advance_eq]
  by_cases h : 10 ≤ s.a.toNat
  · rw [if_pos h, decimalAdjust_of_ten_le h]
    rfl
  by_cases hc : s.c = true
  · rw [if_neg h, if_pos hc, decimalAdjust_of_carry h hc]
    rfl
  · rw [if_neg h, if_neg hc, decimalAdjust_of_digit h hc]

/-- Settles O32: each instruction's result as a number, then the advance by one byte. -/
theorem clbCmcCmaTcsStc : Obligations.ClbCmcCmaTcsStc := by
  unfold Obligations.ClbCmcCmaTcsStc
  intro s
  refine ⟨?clb, ?cmc, ?cma, ?tcs, ?stc⟩
  case clb =>
    rw [exec_clb, setAC_eq, advance_eq]
    rfl
  case cmc =>
    rw [exec_cmc, not_eq_decide_one_sub, setC_eq, advance_eq]
    rfl
  case cma =>
    rw [exec_cma, not_eq_ofNat_fifteen_sub, setA_eq, advance_eq]
    rfl
  case tcs =>
    rw [exec_tcs, ofNat_nine_add_toNat, setAC_eq, advance_eq]
    rfl
  case stc =>
    rw [exec_stc, setC_eq, advance_eq]
    rfl

/-- Settles O36: the table of R202, then the advance by one byte. -/
theorem kbpMapsOneHotValues : Obligations.KbpMapsOneHotValues := by
  unfold Obligations.KbpMapsOneHotValues
  intro s
  rw [exec_kbp, kbpTable_eq_getD, setA_eq, advance_eq]
  rfl

end Sys2Proof.Machine
end

section
/-! PROOFS. 50_scheduler_and_host.md section 1: what a step never fails to do, and what no instruction touches. -/

namespace Sys2Proof.Machine

open Sys2Proof.Safety

variable (s : State)

/-- Every instruction answers a next state (R239) and leaves the cycle counter and `SCHED` to the scheduler (R38, R39). -/
theorem exec_keeps_cyc_and_sched (i : Instr) :
    ∃ t, exec i s = .next t ∧ t.cyc = s.cyc ∧ t.sched = s.sched := by
  cases i
  case jcn c a =>
    by_cases h : jcnTaken c s = true
    · exact ⟨_, if_pos h, rfl, rfl⟩
    · exact ⟨_, if_neg h, rfl, rfl⟩
  case jms p l =>
    by_cases h : s.stackFull = true
    · exact ⟨_, if_pos h, rfl, rfl⟩
    · exact ⟨_, if_neg h, rfl, rfl⟩
  case isz r a =>
    by_cases h : s.reg r + 1 = 0
    · exact ⟨_, if_pos h, rfl, rfl⟩
    · exact ⟨_, if_neg h, rfl, rfl⟩
  case bbl d =>
    by_cases h : s.stackEmpty = true
    · exact ⟨_, if_pos h, rfl, rfl⟩
    · exact ⟨_, if_neg h, rfl, rfl⟩
  all_goals exact ⟨_, rfl, rfl, rfl⟩

/-- `ExecuteOne` always yields a next state (R239); it adds the cost of the opcode byte to the cycle counter. -/
theorem step_advances_cyc :
    ∃ t, step s = .next t ∧ t.cyc = s.cyc + cost s.fetchOp ∧ t.sched = s.sched := by
  obtain ⟨u, hu, hcyc, hsched⟩ := exec_keeps_cyc_and_sched s.clearDiag s.fetch
  refine ⟨u.retire (cost s.fetchOp), step_of_exec s hu, ?cyc, ?sched⟩
  case cyc => rw [State.retire_cyc, hcyc, State.clearDiag_cyc]
  case sched => rw [State.retire_sched, hsched, State.clearDiag_sched]

/-! `step()` (R222). -/

/-- The allowed `step()` command around its one `ExecuteOne`. -/
theorem stepCommand_of_step {t : State} (hs : s.commandAllowed = true)
    (ht : step (s.setSched .steppingOnce) = .next t) :
    stepCommand s = .next (t.setSched .stopped, .stepped (cost s.fetchOp) t.diag) := by
  rw [stepCommand, if_pos hs, executeOne_of_step _ ht]
  rfl

/-- Settles O51: the one `ExecuteOne` has a next state, which the command hands back stopped. -/
theorem stepCommandExecutesOneInstruction : Obligations.StepCommandExecutesOneInstruction := by
  unfold Obligations.StepCommandExecutesOneInstruction
  intro s hs
  obtain ⟨t, ht, -, -⟩ := step_advances_cyc (s.setSched .steppingOnce)
  exact ⟨t, ht, stepCommand_of_step s (s.commandAllowed_iff.2 hs) ht⟩

/-! `run(budget, BP)` (R225): an invariant of the loop, kept by every instruction it executes. -/

/-- What `run` has accumulated after one more instruction, of cost `c` and ending in `t`. -/
def RunResult.extend (r : RunResult) (bp : List Addr) (c : Nat) (t : State) : RunResult where
  acc := r.acc + c
  n := r.n + 1
  ds := r.ds ++ t.diag.toList
  hit := breakpointHit bp t

/-- After `k` instructions from `s` the budget is not met and, but at the start, no breakpoint is hit: `run` goes on. -/
def RunGoesOn (budget : Nat) (bp : List Addr) (s : State) (k : Nat) : Prop :=
  ∃ u c ds, executeMany k s = .next (u, c, ds) ∧ c < budget ∧ (0 < k → u.pcs[0] ∉ bp)

/-- The loop of `run`, entered in `s`, has reached `u` with `r` accumulated. -/
structure RunReaches (budget : Nat) (bp : List Addr) (s u : State) (r : RunResult) : Prop where
  executed : executeMany r.n s = .next (u, r.acc, r.ds)
  wentOn : ∀ k < r.n, RunGoesOn budget bp s k
  hit_iff : r.hit = true ↔ 0 < r.n ∧ u.pcs[0] ∈ bp
  n_le_acc : r.n ≤ r.acc
  n_le_budget : r.n ≤ budget
  cyc : u.cyc = s.cyc + r.acc
  sched : u.sched = s.sched

variable {s} {budget : Nat} {bp : List Addr} {u t : State} {r : RunResult}

theorem RunReaches.start : RunReaches budget bp s s ⟨0, 0, [], false⟩ where
  executed := executeMany_zero s
  wentOn := by simp
  hit_iff := by simp
  n_le_acc := Nat.le_refl 0
  n_le_budget := Nat.zero_le budget
  cyc := rfl
  sched := rfl

/-- Where the loop's test passes, the run goes on in the sense of the claim: `hit = false` says that no instruction so far
left `PCS[0]` at a breakpoint. -/
theorem RunReaches.goesOn (h : RunReaches budget bp s u r) (hacc : r.acc < budget) (hhit : r.hit = false) :
    RunGoesOn budget bp s r.n := by
  refine ⟨u, r.acc, r.ds, h.executed, hacc, fun hpos hmem => ?_⟩
  have hit : r.hit = true := h.hit_iff.2 ⟨hpos, hmem⟩
  simp [hhit] at hit

/-- One instruction more keeps the loop's invariant; the counts grow by at least 1, a cost being at least 1 (R320). -/
theorem RunReaches.extend (h : RunReaches budget bp s u r) (hacc : r.acc < budget) (hhit : r.hit = false)
    (ht : step u = .next t) (hcyc : t.cyc = u.cyc + cost u.fetchOp) (hsched : t.sched = u.sched) :
    RunReaches budget bp s t (r.extend bp (cost u.fetchOp) t) where
  executed := executeMany_succ s h.executed ht
  wentOn k hk := by
    obtain hlt | rfl := Nat.lt_succ_iff_lt_or_eq.1 hk
    · exact h.wentOn k hlt
    · exact h.goesOn hacc hhit
  hit_iff := (breakpointHit_iff t bp).trans (and_iff_right (Nat.succ_pos r.n)).symm
  n_le_acc := Nat.add_le_add h.n_le_acc (cost_pos _)
  n_le_budget := Nat.succ_le_of_lt (Nat.lt_of_le_of_lt h.n_le_acc hacc)
  cyc := by rw [hcyc, h.cyc, Nat.add_assoc]; rfl
  sched := hsched.trans h.sched

theorem runLoop_of_ended (fuel : Nat) (h : r.hit = true ∨ budget ≤ r.acc) :
    runLoop budget bp fuel r u = .next (u, r) := by
  cases fuel with
  | zero => rfl
  | succ fuel =>
    have hstop : ¬ (r.acc < budget ∧ r.hit = false) := by
      rintro ⟨hacc, hhit⟩
      rcases h with h | h
      · simp [hhit] at h
      · omega
    rw [runLoop, if_neg hstop]

theorem runLoop_of_step (fuel : Nat) (hacc : r.acc < budget) (hhit : r.hit = false) (ht : step u = .next t) :
    runLoop budget bp (fuel + 1) r u = runLoop budget bp fuel (r.extend bp (cost u.fetchOp) t) t := by
  rw [runLoop, if_pos ⟨hacc, hhit⟩, executeOne_of_step u ht]
  rfl

/-- The loop ends at a breakpoint or at its budget when its fuel covers the instructions the budget leaves. -/
theorem runLoop_ends (fuel : Nat) (hfuel : budget ≤ r.n + fuel) (h : RunReaches budget bp s u r) :
    ∃ t r', runLoop budget bp fuel r u = .next (t, r') ∧ RunReaches budget bp s t r'
      ∧ (r'.hit = true ∨ budget ≤ r'.acc) := by
  induction fuel generalizing u r with
  | zero =>
    have hend : r.hit = true ∨ budget ≤ r.acc := .inr (Nat.le_trans hfuel h.n_le_acc)
    exact ⟨u, r, runLoop_of_ended 0 hend, h, hend⟩
  | succ fuel ih =>
    by_cases hend : r.hit = true ∨ budget ≤ r.acc
    · exact ⟨u, r, runLoop_of_ended _ hend, h, hend⟩
    · obtain ⟨hhit, hacc⟩ := not_or.1 hend
      have hhit : r.hit = false := Bool.eq_false_of_not_eq_true hhit
      have hacc : r.acc < budget := Nat.lt_of_not_le hacc
      obtain ⟨t, ht, hcyc, hsched⟩ := step_advances_cyc u
      have hfuel' : budget ≤ (r.extend bp (cost u.fetchOp) t).n + fuel := by
        simp only [RunResult.extend]
        omega
      rw [runLoop_of_step fuel hacc hhit ht]
      exact ih hfuel' (h.extend hacc hhit ht hcyc hsched)

/-- The allowed `run` command around its loop. -/
theorem runCommand_of_runLoop (hs : s.commandAllowed = true)
    (h : runLoop budget bp budget ⟨0, 0, [], false⟩ (s.setSched .running) = .next (u, r)) :
    runCommand budget bp s = .next (u.setSched .stopped, .ran r) := by
  rw [runCommand, if_pos hs, h]

/-- Settles O53: the loop's invariant where the loop ends, with `SCHED` put back to `Stopped`. -/
theorem runEndsAtBudgetOrBreakpoint : Obligations.RunEndsAtBudgetOrBreakpoint := by
  unfold Obligations.RunEndsAtBudgetOrBreakpoint
  intro s budget bp hs
  obtain ⟨u, r, hrun, h, hend⟩ :=
    runLoop_ends (budget := budget) (bp := bp) budget (Nat.le_add_left _ _) (.start (s := s.setSched .running))
  have hu : { u with sched := .running } = u := by
    rw [← show u.sched = .running from h.sched]
  refine ⟨u.setSched .stopped, r, runCommand_of_runLoop (s.commandAllowed_iff.2 hs) hrun, rfl, ?executed,
    h.wentOn, h.hit_iff, hend, h.n_le_budget, h.cyc⟩
  case executed => exact h.executed.trans (by rw [State.setSched, hu])

end Sys2Proof.Machine
end

section
/-! PROOFS. 50_scheduler_and_host.md section 3: setters (R233), getters (R232) and the disassembly helper (R235). -/

namespace Sys2Proof.Machine

open Sys2Proof.Safety

variable (s : State)

/-! A value clamped to a cell's width (R233). -/

theorem ofNat_twelve_mod_4096 (v : Nat) : BitVec.ofNat 12 (v % 4096) = BitVec.ofNat 12 v := by
  apply BitVec.eq_of_toNat_eq
  simp

theorem flagValue_eq (b : Bool) : flagValue b = .num (if b then 1 else 0) := by
  cases b <;> rfl

/-! The flat index of a cell named by numbers in their ranges (20_memory.md R60). -/

theorem ramIndex_ofNat {b g ch : Nat} (h : (CellName.ram b g ch).inRange = true) :
    ramIndex (BitVec.ofNat 3 b) (BitVec.ofNat 2 g) (BitVec.ofNat 4 ch) = b * 64 + g * 16 + ch := by
  obtain ⟨hb, hg, hch⟩ := (CellName.inRange_ram b g ch).1 h
  rw [ramIndex_eq, toNat_ofNat_of_lt hb, toNat_ofNat_of_lt hg, toNat_ofNat_of_lt hch]

theorem statusIndex_ofNat {b g i : Nat} (h : (CellName.status b g i).inRange = true) :
    statusIndex (BitVec.ofNat 3 b) (BitVec.ofNat 2 g) (BitVec.ofNat 2 i) = b * 16 + g * 4 + i := by
  obtain ⟨hb, hg, hi⟩ := (CellName.inRange_status b g i).1 h
  rw [statusIndex_eq, toNat_ofNat_of_lt hb, toNat_ofNat_of_lt hg, toNat_ofNat_of_lt hi]

theorem toNat_ofNat_x {i : Nat} (h : (CellName.x i).inRange = true) : (BitVec.ofNat 4 i).toNat = i :=
  toNat_ofNat_of_lt ((CellName.inRange_x i).1 h)

theorem toNat_ofNat_pair {p : Nat} (h : (CellName.pair p).inRange = true) : (BitVec.ofNat 3 p).toNat = p :=
  toNat_ofNat_of_lt ((CellName.inRange_pair p).1 h)

theorem toNat_ofNat_port {b : Nat} (h : (CellName.port b).inRange = true) : (BitVec.ofNat 3 b).toNat = b :=
  toNat_ofNat_of_lt ((CellName.inRange_port b).1 h)

/-! Setters: what each writes. -/

theorem poke_a (v : Nat) : s.poke .a v = { s with a := BitVec.ofNat 4 (v % 16) } := by
  rw [ofNat_four_mod_sixteen]
  rfl

theorem poke_c (v : Nat) : s.poke .c v = { s with c := decide (v % 2 = 1) } := by
  rw [← Nat.testBit_zero]
  rfl

theorem poke_x {i : Nat} (h : (CellName.x i).inRange = true) (v : Nat) :
    s.poke (.x i) v = { s with x := s.x.setIfInBounds i (BitVec.ofNat 4 (v % 16)) } := by
  rw [State.poke, setReg_eq, toNat_ofNat_x h, ofNat_four_mod_sixteen]

theorem poke_pair {p : Nat} (h : (CellName.pair p).inRange = true) (v : Nat) :
    s.poke (.pair p) v = { s with
      x := (s.x.setIfInBounds (2 * p) (BitVec.ofNat 4 (v / 16 % 16))).setIfInBounds (2 * p + 1)
        (BitVec.ofNat 4 (v % 16)) } := by
  have hhigh : v % 2 ^ 8 / 16 = v / 16 % 16 := by omega
  have hlow : v % 2 ^ 8 % 16 = v % 16 := by omega
  rw [State.poke, setPair_eq_ofNat, toNat_ofNat_pair h, BitVec.toNat_ofNat, hhigh, hlow]

theorem poke_pcs (i v : Nat) :
    s.poke (.pcs i) v = { s with pcs := s.pcs.setIfInBounds i (BitVec.ofNat 12 (v % 4096)) } := by
  rw [ofNat_twelve_mod_4096]
  rfl

theorem read_poke_ram {b g ch : Nat} (h : (CellName.ram b g ch).inRange = true) (v k : Nat) :
    (s.poke (.ram b g ch) v).ram.read k
      = if k = b * 64 + g * 16 + ch then BitVec.ofNat 4 (v % 16) else s.ram.read k := by
  rw [State.poke, State.writeChar_ram, Cells.read_write, ramIndex_ofNat h, ofNat_four_mod_sixteen]

theorem read_poke_status {b g i : Nat} (h : (CellName.status b g i).inRange = true) (v k : Nat) :
    (s.poke (.status b g i) v).status.read k
      = if k = b * 16 + g * 4 + i then BitVec.ofNat 4 (v % 16) else s.status.read k := by
  rw [State.poke, State.writeStatus_status, Cells.read_write, statusIndex_ofNat h, ofNat_four_mod_sixteen]

theorem read_poke_port {b : Nat} (h : (CellName.port b).inRange = true) (v k : Nat) :
    (s.poke (.port b) v).port.read k = if k = b then BitVec.ofNat 4 (v % 16) else s.port.read k := by
  rw [State.poke, State.writePort_port, Cells.read_write, toNat_ofNat_port h, ofNat_four_mod_sixteen]

/-- Settles O56: the setters one by one; the cells without one are excluded by `writable`. -/
theorem pokeTouchesOnlySettableCells : Obligations.PokeTouchesOnlySettableCells := by
  unfold Obligations.PokeTouchesOnlySettableCells
  refine fun s cell v => ⟨fun h => serve_poke_refused s h v, fun hr hw => ⟨s.poke cell v, serve_poke s hr hw v, ?_⟩⟩
  cases cell
  case a => exact poke_a s v
  case c => exact poke_c s v
  case x i => exact poke_x s hr v
  case pair p => exact poke_pair s hr v
  case pcs i => exact poke_pcs s i v
  case ram b g ch => exact ⟨rfl, read_poke_ram s hr v⟩
  case status b g i => exact ⟨rfl, read_poke_status s hr v⟩
  case port b => exact ⟨rfl, read_poke_port s hr v⟩
  all_goals exact absurd hw Bool.false_ne_true

/-! Getters: what each shows. -/

theorem peek_x {i : Nat} (h : (CellName.x i).inRange = true) : s.peek (.x i) = .num (regAt s i).toNat := by
  rw [State.peek, ← regAt_toNat, toNat_ofNat_x h]

theorem peek_pair {p : Nat} (h : (CellName.pair p).inRange = true) :
    s.peek (.pair p) = .num (16 * (regAt s (2 * p)).toNat + (regAt s (2 * p + 1)).toNat) := by
  have hhigh : (regAt s (2 * p)).toNat < 16 := (regAt s (2 * p)).isLt
  have hlow : (regAt s (2 * p + 1)).toNat < 16 := (regAt s (2 * p + 1)).isLt
  rw [State.peek, pair_eq_ofNat, toNat_ofNat_pair h, toNat_ofNat_of_lt (by omega), Nat.mul_comm 16]

theorem peek_ram {b g ch : Nat} (h : (CellName.ram b g ch).inRange = true) :
    s.peek (.ram b g ch) = .num (s.ram.read (b * 64 + g * 16 + ch)).toNat := by
  rw [State.peek, State.readChar, ramIndex_ofNat h]

theorem peek_status {b g i : Nat} (h : (CellName.status b g i).inRange = true) :
    s.peek (.status b g i) = .num (s.status.read (b * 16 + g * 4 + i)).toNat := by
  rw [State.peek, State.readStatus, statusIndex_ofNat h]

/-- The port getter goes through `ReadPort` (R67): bank 1 in test mode. -/
theorem peek_port {b : Nat} (h : (CellName.port b).inRange = true) :
    s.peek (.port b) = .num (s.port.read (if s.tm then 1 else b)).toNat := by
  have hbank : (if s.tm then 1 else BitVec.ofNat 3 b).toNat = if s.tm then 1 else b := by
    rw [apply_ite BitVec.toNat, toNat_ofNat_port h]
    rfl
  rw [State.peek, State.readPort, State.portLatch, hbank]

/-! A setter, then the getter of the same cell. -/

theorem peek_poke_a (v : Nat) : (s.poke .a v).peek .a = .num (v % 2 ^ 4) := by
  simp only [State.poke, State.peek, State.setA_a, BitVec.toNat_ofNat]

theorem peek_poke_c (v : Nat) : (s.poke .c v).peek .c = .num (v % 2 ^ 1) := by
  simp only [State.poke, State.peek, State.setC_c, flagValue, Nat.toNat_testBit, pow_zero, Nat.div_one, pow_one]

theorem peek_poke_x (i v : Nat) : (s.poke (.x i) v).peek (.x i) = .num (v % 2 ^ 4) := by
  simp only [State.poke, State.peek, State.reg_setReg_same, BitVec.toNat_ofNat]

theorem peek_poke_pair (p v : Nat) : (s.poke (.pair p) v).peek (.pair p) = .num (v % 2 ^ 8) := by
  simp only [State.poke, State.peek, State.pair_setPair, BitVec.toNat_ofNat]

theorem peek_poke_pcs {i : Nat} (h : (CellName.pcs i).inRange = true) (v : Nat) :
    (s.poke (.pcs i) v).peek (.pcs i) = .num (v % 2 ^ 12) := by
  have hi : i < 4 := (CellName.inRange_pcs i).1 h
  simp [State.poke, State.peek, hi]

theorem peek_poke_ram (b g ch v : Nat) : (s.poke (.ram b g ch) v).peek (.ram b g ch) = .num (v % 2 ^ 4) := by
  simp only [State.poke, State.peek, State.readChar_writeChar, and_self, ↓reduceIte, BitVec.toNat_ofNat]

theorem peek_poke_status (b g i v : Nat) :
    (s.poke (.status b g i) v).peek (.status b g i) = .num (v % 2 ^ 4) := by
  simp only [State.poke, State.peek, State.readStatus_writeStatus, and_self, ↓reduceIte, BitVec.toNat_ofNat]

/-- Outside test mode the port getter shows the bank that the setter wrote. -/
theorem peek_poke_port (htm : s.tm = false) (b v : Nat) : (s.poke (.port b) v).peek (.port b) = .num (v % 2 ^ 4) := by
  simp [State.poke, State.peek, State.readPort, htm, State.portLatch_writePort]

/-- A setter and then the getter of its cell, as requests. -/
theorem serve_peek_after_poke {cell : CellName} (hr : cell.inRange = true) (hw : cell.writable = true) {v w : Nat}
    (h : (s.poke cell v).peek cell = .num w) :
    ∃ t, serve (.poke cell v) s = .next (t, .done) ∧ serve (.peek cell) t = .next (t, .value (.num w)) :=
  ⟨s.poke cell v, serve_poke s hr hw v, by rw [serve_peek, if_pos hr, h]⟩

/-- Settles O57: the getters one by one, then each setter with its getter. -/
theorem peekAfterPokeShowsTheClampedValue : Obligations.PeekAfterPokeShowsTheClampedValue := by
  unfold Obligations.PeekAfterPokeShowsTheClampedValue
  refine fun s => ⟨fun cell => ?getter, fun cell v width hr hcell => ?setter⟩
  case getter =>
    rw [serve_peek]
    by_cases hr : cell.inRange = true
    case neg => rw [if_neg hr, if_neg hr]
    rw [if_pos hr, if_pos hr]
    cases cell
    case c | t | tm | active => rw [State.peek, flagValue_eq]
    case x i => rw [peek_x s hr]
    case pair p => rw [peek_pair s hr]
    case ram b g ch => rw [peek_ram s hr]
    case status b g i => rw [peek_status s hr]
    case port b => rw [peek_port s hr]
    all_goals rfl
  case setter =>
    rcases hcell with ⟨rfl, rfl⟩ | ⟨⟨p, rfl⟩, rfl⟩ | ⟨⟨i, rfl⟩, rfl⟩ | ⟨hnibble, rfl⟩
    · exact serve_peek_after_poke s hr rfl (peek_poke_c s v)
    · exact serve_peek_after_poke s hr rfl (peek_poke_pair s p v)
    · exact serve_peek_after_poke s hr rfl (peek_poke_pcs s hr v)
    · rcases hnibble with rfl | ⟨i, rfl⟩ | ⟨b, g, ch, rfl⟩ | ⟨b, g, i, rfl⟩ | ⟨⟨b, rfl⟩, htm⟩
      · exact serve_peek_after_poke s hr rfl (peek_poke_a s v)
      · exact serve_peek_after_poke s hr rfl (peek_poke_x s i v)
      · exact serve_peek_after_poke s hr rfl (peek_poke_ram s b g ch v)
      · exact serve_peek_after_poke s hr rfl (peek_poke_status s b g i v)
      · exact serve_peek_after_poke s hr rfl (peek_poke_port s htm b v)

/-! The disassembly helper. -/

/-- Every opcode byte has a row (R115). -/
theorem rowOf_isSome (op : Byte) : (rowOf op).isSome = true := by
  revert op
  decide

/-- The row that `rowOf` finds is one of the table's and covers the byte. -/
theorem mem_opcodeTable_of_rowOf {op : Byte} {r : Row} (h : rowOf op = some r) :
    r ∈ opcodeTable ∧ r.covers op = true :=
  ⟨List.mem_of_find?_eq_some h, List.find?_some (p := fun q : Row => q.covers op) h⟩

/-- The answer is made of the two bytes alone, and the state is left as it was. -/
theorem serve_disasm (op b2 : Byte) : serve (.disasm op b2) s = .next (s, .row (rowOf op) (decodeOp op b2)) := rfl

/-- Settles O58: the same answer in both states, with the row that every byte has. -/
theorem disasmIsPure : Obligations.DisasmIsPure := by
  unfold Obligations.DisasmIsPure
  intro s s' op b2
  obtain ⟨r, hr⟩ := Option.isSome_iff_exists.1 (rowOf_isSome op)
  refine ⟨r, ?_, ?_, mem_opcodeTable_of_rowOf hr⟩
  · rw [serve_disasm, hr]
  · rw [serve_disasm, hr]

end Sys2Proof.Machine
end

section
/-! PROOFS. 60_exceptions.md section 1: StackOverflow (R263), StackUnderflow (R264) and UnimplementedOpcode (R265). -/

namespace Sys2Proof.Machine

open Sys2Proof.Safety

variable (s : State)

/-- The one shape of the three kinds (R262): the program counter advances, the sticky bit and the diagnostic are set. -/
theorem raise_advance_eq (n pc : Addr) (k : DiagKind) (op : Byte) :
    (s.advance n).raise k pc op
      = { s with pcs := slot0 s (s.pcs[0] + n), err := s.err.record k, diag := some ⟨k, pc, op⟩ } := rfl

theorem State.stackFull_iff : s.stackFull = true ↔ s.sp = 3 := beq_iff_eq

theorem State.stackEmpty_iff : s.stackEmpty = true ↔ s.sp = 0 := beq_iff_eq

/-! StackOverflow. -/

variable {s}

/-- A call at full depth transfers no control (R263). -/
theorem exec_jms_of_full (hsp : s.sp = 3) (h : Nibble) (l : Byte) :
    exec (.jms h l) s = .next
      { s with
        pcs := slot0 s (s.pcs[0] + 2)
        err := { s.err with so := true }
        diag := some ⟨.stackOverflow, s.pc, Instr.opcodeByte (.jms h l)⟩ } := by
  have hraise : exec (.jms h l) s = .next ((s.advance 2).raise .stackOverflow s.pc (Instr.opcodeByte (.jms h l))) :=
    if_pos (s.stackFull_iff.2 hsp)
  rw [hraise, raise_advance_eq]
  rfl

theorem exec_jms_of_room (hsp : s.sp ≠ 3) (h : Nibble) (l : Byte) :
    exec (.jms h l) s = .next (s.push (fullAddr h l) ((s.pc + 2) &&& s.amask)) :=
  if_neg (mt s.stackFull_iff.1 hsp)

/-- Outside test mode neither the target nor the return address of a call is masked (R29). -/
theorem exec_jms_normal (htm : s.tm = false) (hsp : s.sp ≠ 3) (h : Nibble) (l : Byte) :
    exec (.jms h l) s = .next { s with pcs := #v[h ++ l, s.pcs[0] + 2, s.pcs[1], s.pcs[2]], sp := s.sp + 1 } := by
  rw [exec_jms_of_room hsp, State.push, s.and_amask_normal htm, s.and_amask_normal htm]
  rfl

theorem slot0_normal (htm : s.tm = false) (v : Addr) : slot0 s v = s.pcs.set 0 v := by
  rw [slot0_eq, s.and_amask_normal htm]

theorem execAll_nil : execAll [] s = .next s := rfl

/-- One more call before the instructions that follow, in the terms of `exec_jms_normal`. -/
theorem execAll_jms_cons (htm : s.tm = false) (hsp : s.sp ≠ 3) (h : Nibble) (l : Byte) (is : List Instr) :
    execAll (.jms h l :: is) s
      = execAll is { s with pcs := #v[h ++ l, s.pcs[0] + 2, s.pcs[1], s.pcs[2]], sp := s.sp + 1 } := by
  rw [execAll, exec_jms_normal htm hsp]

/-- Three calls from the base fill the stack: each return address is pushed on those before it (R29, R144). -/
theorem execAll_three_calls (htm : s.tm = false) (hsp : s.sp = 0) (h₁ h₂ h₃ : Nibble) (l₁ l₂ l₃ : Byte) :
    execAll [.jms h₁ l₁, .jms h₂ l₂, .jms h₃ l₃] s = .next
      { s with pcs := #v[h₃ ++ l₃, (h₂ ++ l₂) + 2, (h₁ ++ l₁) + 2, s.pcs[0] + 2], sp := 3 } := by
  simp [execAll_jms_cons, execAll_nil, htm, hsp]

/-- Settles O11: a call at full depth, and the same call after the three from reset that fill the stack. -/
theorem stackOverflowIsNotFatal : Obligations.StackOverflowIsNotFatal := by
  unfold Obligations.StackOverflowIsNotFatal
  refine ⟨fun h l s hsp => ?full, fun h₁ h₂ h₃ h₄ l₁ l₂ l₃ l₄ => ?fourth⟩
  case full => exact ⟨_, exec_jms_of_full hsp h l, rfl⟩
  case fourth =>
    refine ⟨_, _, execAll_three_calls rfl rfl h₁ h₂ h₃ l₁ l₂ l₃, exec_jms_of_full rfl h₄ l₄,
      rfl, rfl, rfl, rfl, rfl, ?pcs⟩
    case pcs =>
      rw [slot0_normal rfl]
      rfl

/-! StackUnderflow. -/

/-- A return at the base does not load `A` (R264). -/
theorem exec_bbl_of_base (hsp : s.sp = 0) (d : Nibble) :
    exec (.bbl d) s = .next
      { s with
        pcs := slot0 s (s.pcs[0] + 1)
        err := { s.err with su := true }
        diag := some ⟨.stackUnderflow, s.pc, Instr.opcodeByte (.bbl d)⟩ } := by
  have hraise : exec (.bbl d) s = .next ((s.advance 1).raise .stackUnderflow s.pc (Instr.opcodeByte (.bbl d))) :=
    if_pos (s.stackEmpty_iff.2 hsp)
  rw [hraise, raise_advance_eq]
  rfl

/-- Settles O14: the return at the base names every field it writes, and `A` is not among them. -/
theorem stackUnderflowLeavesTheAccumulator : Obligations.StackUnderflowLeavesTheAccumulator := by
  unfold Obligations.StackUnderflowLeavesTheAccumulator
  intro d s hsp
  exact ⟨_, exec_bbl_of_base hsp d, rfl, rfl⟩

/-! UnimplementedOpcode. -/

variable (s)

theorem unimplemented_eq (op : Byte) :
    s.unimplemented op = { s with
      pcs := slot0 s (s.pcs[0] + 1)
      err := { s.err with un := true }
      diag := some ⟨.unimplementedOpcode, s.pc, op⟩ } := by
  rw [State.unimplemented, raise_advance_eq]
  rfl

/-- The nine rows have one meaning, with their own opcode byte (R210). -/
theorem exec_unimplemented {n : Nibble} {i : Instr}
    (hi : i ∈ [Instr.unimpl0x n, .unimplE2, .unimplE3, .unimplE8, .unimplEA, .unimplEB, .unimplF1, .unimplFE,
      .unimplFF]) :
    exec i s = .next (s.unimplemented i.opcodeByte) := by
  simp only [List.mem_cons, List.not_mem_nil, or_false] at hi
  rcases hi with rfl | rfl | rfl | rfl | rfl | rfl | rfl | rfl | rfl <;> rfl

/-- Settles O38: the one meaning of the nine rows, field by field. -/
theorem unimplementedBytesGoOn : Obligations.UnimplementedBytesGoOn := by
  unfold Obligations.UnimplementedBytesGoOn
  intro n s i hi
  refine ⟨_, exec_unimplemented s hi, ?_⟩
  rw [unimplemented_eq]

end Sys2Proof.Machine
end

section
/-! PROOFS. 30_encoding.md: decoding and encoding undo one another (R100 to R111), and the rows of the opcode table (R115). -/

namespace Sys2Proof

/-! The fields of a byte (R102). -/

theorem highNibble_append (h l : Nibble) : highNibble (h ++ l) = h := by
  revert h l
  decide

theorem lowNibble_append (h l : Nibble) : lowNibble (h ++ l) = l := by
  revert h l
  decide

theorem highNibble_append_pair (h : Nibble) (p : PairNo) (b : BitVec 1) : highNibble (h ++ p ++ b) = h := by
  revert h p b
  decide

theorem pairField_append (h : Nibble) (p : PairNo) (b : BitVec 1) : pairField (h ++ p ++ b) = p := by
  revert h p b
  decide

theorem subOpcode_append (h : Nibble) (p : PairNo) (b : BitVec 1) : subOpcode (h ++ p ++ b) = b.getLsbD 0 := by
  revert h p b
  decide

/-- The map of R105 gives each instruction back from its opcode byte; a one-byte instruction from any byte after it. -/
theorem decodeOp_opcodeByte (i : Instr) (b2 : Byte) : decodeOp i.opcodeByte (i.operandByte.headD b2) = i := by
  cases i
  case fim p d | src p | fin p | jin p =>
    rw [Instr.opcodeByte, decodeOp, highNibble_append_pair, subOpcode_append, pairField_append]
    rfl
  case jcn n a | jun n a | jms n a | isz n a =>
    rw [Instr.opcodeByte, decodeOp, highNibble_append, lowNibble_append]
    rfl
  case inc n | add n | sub n | ld n | xch n | bbl n | ldm n | unimpl0x n =>
    rw [Instr.opcodeByte, decodeOp, highNibble_append, lowNibble_append]
    rfl
  all_goals rfl

/-- An instruction has the length that R111 gives its opcode byte (`Laws.WordLength`). -/
theorem length_encode (i : Instr) : (encode i).length = opLength i.opcodeByte := by
  cases i
  case jcn c a => exact Laws.WordLength.jcn c a
  case fim p d => exact Laws.WordLength.fim p d
  case src p => exact Laws.WordLength.src p
  case fin p => exact Laws.WordLength.fin p
  case jin p => exact Laws.WordLength.jin p
  case jun h l => exact Laws.WordLength.jun h l
  case jms h l => exact Laws.WordLength.jms h l
  case inc r => exact Laws.WordLength.inc r
  case isz r a => exact Laws.WordLength.isz r a
  case add r => exact Laws.WordLength.add r
  case sub r => exact Laws.WordLength.sub r
  case ld r => exact Laws.WordLength.ld r
  case xch r => exact Laws.WordLength.xch r
  case bbl d => exact Laws.WordLength.bbl d
  case ldm d => exact Laws.WordLength.ldm d
  case unimpl0x n => exact Laws.WordLength.unimpl0x n
  all_goals rfl

/-- There is at most one operand byte (R101). -/
theorem operandByte_cases (i : Instr) : i.operandByte = [] ∨ ∃ b, i.operandByte = [b] := by
  cases i
  case jcn _ b | fim _ b | jun _ b | jms _ b | isz _ b => exact .inr ⟨b, rfl⟩
  all_goals exact .inl rfl

theorem decode_of_one_byte {op : Byte} (h : opLength op ≠ 2) (rest : List Byte) :
    decode (op :: rest) = .ok (decodeOp op 0, rest) := by
  simp [decode, h]

theorem decode_of_two_bytes {op : Byte} (h : opLength op = 2) (b2 : Byte) (rest : List Byte) :
    decode (op :: b2 :: rest) = .ok (decodeOp op b2, rest) := by
  simp [decode, h]

/-- The length tells how many bytes to take, and the map of R105 gives the instruction back from them. -/
theorem decode_encode (i : Instr) (rest : List Byte) : decode (encode i ++ rest) = .ok (i, rest) := by
  have hlen := length_encode i
  have hop := decodeOp_opcodeByte i 0
  rcases operandByte_cases i with h | ⟨b, h⟩ <;> rw [h] at hop <;> rw [encode, h] at hlen ⊢
  · rw [List.singleton_append, decode_of_one_byte (by simp [← hlen])]
    exact congrArg (Except.ok <| Prod.mk · rest) hop
  · rw [List.cons_append, List.singleton_append, decode_of_two_bytes hlen.symm]
    exact congrArg (Except.ok <| Prod.mk · rest) hop

/-- Settles O3: the round trip, whatever follows. -/
theorem decodeOfEncode : Obligations.DecodeOfEncode :=
  decode_encode

/-- Settles O1: each word is the encoding of its instruction, so the round trip decodes it. -/
theorem wordsOfTheSpecDecode : Obligations.WordsOfTheSpecDecode := by
  unfold Obligations.WordsOfTheSpecDecode
  exact ⟨decode_encode (.jcn 4 0x20) [], decode_encode (.jms 1 0x23) [], decode_encode (.fim 2 0x95) [0x25],
    decode_encode (.fin 3) [], decode_encode (.add 5) [], decode_encode (.sub 2) [], decode_encode .wrm [],
    decode_encode .rd0 [], decode_encode .daa [], decode_encode .dcl [], decode_encode .unimplF1 [],
    decode_encode (.unimpl0x 7) []⟩

/-- Settles O2: the encoder's own map, entry by entry. -/
theorem encodingsFollowTheMap : Obligations.EncodingsFollowTheMap := by
  unfold Obligations.EncodingsFollowTheMap
  refine ⟨fun n b => ?nibble, fun p b => ?pair, rfl, rfl⟩
  case nibble => exact ⟨rfl, rfl, rfl, rfl, rfl, rfl, rfl, rfl, rfl, rfl, rfl, rfl⟩
  case pair => exact ⟨rfl, rfl, rfl, rfl⟩

/-! The bytes of a decoded instruction. -/

/-- The operand byte is copied into the instruction and decides nothing of its row. -/
theorem mnemonic_decodeOp (op b2 : Byte) : (decodeOp op b2).mnemonic = (decodeOp op 0).mnemonic := by
  rw [decodeOp, decodeOp]
  split
  case h_3 | h_4 => split <;> rfl
  all_goals rfl

theorem oneOf_decodeOp (ms : List String) (op b2 : Byte) :
    Safety.oneOf ms (decodeOp op b2) = Safety.oneOf ms (decodeOp op 0) := by
  rw [Safety.oneOf, Safety.oneOf, mnemonic_decodeOp]

/-- No bit of the opcode byte is dropped. -/
theorem opcodeByte_decodeOp (op b2 : Byte) : (decodeOp op b2).opcodeByte = op := by
  have hcopied : (decodeOp op b2).opcodeByte = (decodeOp op 0).opcodeByte := by
    rw [decodeOp, decodeOp]
    split
    case h_3 | h_4 => split <;> rfl
    all_goals rfl
  have hop : ∀ op : Byte, (decodeOp op 0).opcodeByte = op := by decide
  exact hcopied.trans (hop op)

theorem length_encode_decodeOp (op b2 : Byte) : (encode (decodeOp op b2)).length = opLength op := by
  rw [length_encode, opcodeByte_decodeOp]

theorem operandByte_decodeMemoryGroup (n : Nibble) : (decodeMemoryGroup n).operandByte = [] := by
  revert n
  decide

theorem operandByte_decodeAccumulatorGroup (n : Nibble) : (decodeAccumulatorGroup n).operandByte = [] := by
  revert n
  decide

/-- Where there is an operand byte, it is the one handed to the decoder. -/
theorem operandByte_decodeOp (op b2 : Byte) :
    (decodeOp op b2).operandByte = [] ∨ (decodeOp op b2).operandByte = [b2] := by
  rw [decodeOp]
  split
  case h_3 => split; exacts [.inl rfl, .inr rfl]
  case h_4 => split <;> exact .inl rfl
  case h_2 | h_5 | h_6 | h_8 => exact .inr rfl
  case h_15 => exact .inl (operandByte_decodeMemoryGroup _)
  case h_16 => exact .inl (operandByte_decodeAccumulatorGroup _)
  all_goals exact .inl rfl

/-- The bytes of a decoded instruction are the bytes decoded, as many as R111 says. -/
theorem encode_decodeOp (op b2 : Byte) :
    encode (decodeOp op b2) = if opLength op = 2 then [op, b2] else [op] := by
  have hlen := length_encode_decodeOp op b2
  rcases operandByte_decodeOp op b2 with h | h <;>
    rw [encode, opcodeByte_decodeOp, h] at hlen ⊢ <;> simp [← hlen]

/-- R111 by the number of the opcode byte. -/
theorem opLength_eq_two_iff (op : Byte) :
    opLength op = 2 ↔ op.toNat / 16 = 1 ∨ op.toNat / 16 = 4 ∨ op.toNat / 16 = 5 ∨ op.toNat / 16 = 7
      ∨ (op.toNat / 16 = 2 ∧ op.toNat % 2 = 0) := by
  revert op
  decide

/-- Settles O4: the bytes of a decoded instruction, with the two-byte lengths of R111 as numbers. -/
theorem encodeOfDecode : Obligations.EncodeOfDecode := by
  unfold Obligations.EncodeOfDecode
  intro op b2
  simp only [encode_decodeOp, opLength_eq_two_iff]

/-! The opcode table (R115). -/

/-- For each byte the rows that cover it are one row, the one of the instruction decoded. -/
theorem filter_covers (op : Byte) :
    (opcodeTable.filter (·.covers op)).map (fun r => (r.mnemonic, r.length, r.cost))
      = [((decodeOp op 0).mnemonic, opLength op, Machine.cost op)] := by
  revert op
  decide

/-- Settles O5: the one covering row, which `rowOf` finds first. -/
theorem oneRowMatchesEachByte : Obligations.OneRowMatchesEachByte := by
  unfold Obligations.OneRowMatchesEachByte
  refine ⟨rfl, fun op b2 => ?_⟩
  obtain ⟨r, hr, hfields⟩ := List.map_eq_singleton_iff.1 (filter_covers op)
  obtain ⟨hmnemonic, hlength, hcost⟩ : r.mnemonic = _ ∧ r.length = _ ∧ r.cost = _ := by simpa using hfields
  have hmem : r ∈ opcodeTable := List.mem_of_mem_filter (hr ▸ List.mem_singleton_self r)
  have hfind : rowOf op = some r := by rw [rowOf, ← List.head?_filter, hr]; rfl
  refine ⟨r, hmem, hr, hfind, ?_, ?_, hcost⟩
  · exact hmnemonic.trans (mnemonic_decodeOp op b2).symm
  · exact hlength.trans (length_encode_decodeOp op b2).symm

/-! The unimplemented bytes (R211). -/

theorem oneOf_unimplementedRows_decodeOp (op b2 : Byte) :
    Safety.oneOf Safety.unimplementedRows (decodeOp op b2) = true ↔ op ∈ Safety.unimplementedBytes := by
  rw [oneOf_decodeOp]
  revert op
  decide

theorem opLength_of_mem_unimplementedBytes : ∀ op ∈ Safety.unimplementedBytes, opLength op = 1 := by
  decide

/-- Settles O6: the rows of the handler byte by byte, each of one byte. -/
theorem unimplementedBytesAreThe24 : Obligations.UnimplementedBytesAreThe24 := by
  unfold Obligations.UnimplementedBytesAreThe24
  refine fun op b2 => ⟨oneOf_unimplementedRows_decodeOp op b2, fun hop => ?_⟩
  rw [encode_decodeOp, opLength_of_mem_unimplementedBytes op hop]
  rfl

end Sys2Proof
end

section
/-! PROOFS. 40_control_flow.md: JCN, JIN, JUN, JMS, ISZ and BBL (R141 to R146). -/

namespace Sys2Proof.Machine

open Sys2Proof.Safety

variable (s : State)

/-! What each instruction is in terms of the state's operations: a branch is one jump, to its target or past itself. -/

theorem exec_jcn (c : Nibble) (a : Byte) :
    exec (.jcn c a) s = .next (s.jump (if jcnTaken c s = true then inPage s.pc a else s.pc + 2)) := by
  by_cases h : jcnTaken c s = true
  · rw [if_pos h]
    exact if_pos h
  · rw [if_neg h]
    exact if_neg h

theorem exec_jin (p : PairNo) : exec (.jin p) s = .next (s.jump (inPage s.pc (s.pair p))) := rfl

theorem exec_jun (h : Nibble) (l : Byte) : exec (.jun h l) s = .next (s.jump (fullAddr h l)) := rfl

theorem exec_isz (r : RegNo) (a : Byte) :
    exec (.isz r a) s = .next
      ((s.setReg r (s.reg r + 1)).jump (if s.reg r + 1 = 0 then inPage s.pc a else s.pc + 2)) := by
  by_cases h : s.reg r + 1 = 0
  · rw [if_pos h]
    exact if_pos h
  · rw [if_neg h]
    exact if_neg h

variable {s} in
theorem exec_bbl_of_held (hsp : s.sp ≠ 0) (d : Nibble) : exec (.bbl d) s = .next (s.pop.setA d) :=
  if_neg (mt s.stackEmpty_iff.1 hsp)

/-! The conditions as the claims write them. -/

theorem bne_eq_true_iff (u v : Bool) : (u != v) = true ↔ (u = true ↔ v = false) := by
  cases u <;> cases v <;> decide

/-- The selected conditions, ORed, differ from the invert bit (R141). -/
theorem jcnTaken_iff (c : Nibble) :
    jcnTaken c s = true ↔
      (((c.getLsbD 2 = true ∧ s.a = 0) ∨ (c.getLsbD 1 = true ∧ s.c = true) ∨ (c.getLsbD 0 = true ∧ s.t = true))
        ↔ c.getLsbD 3 = false) := by
  simp only [jcnTaken, bne_eq_true_iff, Bool.or_eq_true, Bool.and_eq_true, beq_iff_eq, or_assoc]

theorem add_one_eq_zero_iff (v : Nibble) : v + 1 = 0 ↔ v = 15 := by
  revert v
  decide

theorem toNat_lt_three_iff (sp : BitVec 2) : sp.toNat < 3 ↔ sp ≠ 3 := by
  revert sp
  decide

theorem toNat_pos_iff (sp : BitVec 2) : 0 < sp.toNat ↔ sp ≠ 0 := by
  revert sp
  decide

/-- Settles O7: the one jump of JCN, its condition and its page as the claim writes them. -/
theorem jcnJumpsOnItsCondition : Obligations.JcnJumpsOnItsCondition := by
  unfold Obligations.JcnJumpsOnItsCondition
  intro c a s
  rw [exec_jcn, if_congr (jcnTaken_iff s c) (inPage_eq s.pc a) rfl, jump_eq]
  rfl

/-- Settles O8: the pair's registers by number, in the page of the instruction. -/
theorem jinJumpsThroughItsPair : Obligations.JinJumpsThroughItsPair := by
  unfold Obligations.JinJumpsThroughItsPair
  intro p s
  rw [exec_jin, jump_eq, inPage_eq, regAt_even, regAt_odd]
  rfl

/-- Settles O9: the 12-bit address as a number. -/
theorem junJumpsToItsAddress : Obligations.JunJumpsToItsAddress := by
  unfold Obligations.JunJumpsToItsAddress
  intro h l s
  rw [exec_jun, jump_eq, fullAddr_eq]

/-- Settles O10: a call with room and a call at full depth. -/
theorem jmsCallsOrOverflows : Obligations.JmsCallsOrOverflows := by
  unfold Obligations.JmsCallsOrOverflows
  intro h l s m
  by_cases hsp : s.sp = 3
  case pos =>
    rw [exec_jms_of_full hsp, if_neg (mt (toNat_lt_three_iff s.sp).1 (not_not.2 hsp))]
    rfl
  case neg =>
    rw [exec_jms_of_room hsp, if_pos ((toNat_lt_three_iff s.sp).2 hsp), fullAddr_eq]
    rfl

/-- Settles O12: the register becomes 0 exactly when it was 15. -/
theorem iszBranchesWhenTheRegisterBecomesZero : Obligations.IszBranchesWhenTheRegisterBecomesZero := by
  unfold Obligations.IszBranchesWhenTheRegisterBecomesZero
  intro r a s
  rw [exec_isz, if_congr (add_one_eq_zero_iff (s.reg r)) (inPage_eq s.pc a) rfl, setReg_eq, add_one_eq_ofNat,
    regAt_toNat, jump_eq]
  rfl

/-- Settles O13: a return with an address held and a return at the base. -/
theorem bblReturnsOrUnderflows : Obligations.BblReturnsOrUnderflows := by
  unfold Obligations.BblReturnsOrUnderflows
  intro d s
  by_cases hsp : s.sp = 0
  case pos =>
    rw [exec_bbl_of_base hsp, if_neg (mt (toNat_pos_iff s.sp).1 (not_not.2 hsp))]
    rfl
  case neg =>
    rw [exec_bbl_of_held hsp, if_pos ((toNat_pos_iff s.sp).2 hsp)]
    rfl

variable {s} in
theorem execAll_cons {i : Instr} {t : State} (h : exec i s = .next t) (is : List Instr) :
    execAll (i :: is) s = execAll is t := by
  rw [execAll, h]

/-- The pop takes off what the push put on; the last slot is lost (R29, R30). -/
theorem pop_push (target ret : Addr) :
    (s.push target ret).pop = { s with pcs := #v[ret, s.pcs[1], s.pcs[2], 0] } := by
  simp [State.push, State.pop]

theorem add_one_ne_zero_of_ne_three (sp : BitVec 2) : sp ≠ 3 → sp + 1 ≠ 0 := by
  revert sp
  decide

/-- Settles O15: the call leaves an address to return to, and the pop takes it off again. -/
theorem callThenReturnComesBack : Obligations.CallThenReturnComesBack := by
  unfold Obligations.CallThenReturnComesBack
  intro h l d s hsp
  rw [execAll_cons (exec_jms_of_room hsp h l),
    execAll_cons (exec_bbl_of_held (add_one_ne_zero_of_ne_three s.sp hsp) d), execAll_nil, pop_push]
  rfl

end Sys2Proof.Machine
end

section
/-! PROOFS. 20_memory.md: ROM and port reads in test mode (R62, R67), the address decoder (R66), and that a space in canonical
form is determined by its reads. -/

namespace Sys2Proof.Machine

open Sys2Proof.Safety

/-! Test mode (sections 2 and 3). -/

section

variable (s : State)

theorem toNat_and_amask (a : Addr) : (a &&& s.amask).toNat = if s.tm then a.toNat % 256 else a.toNat := by
  cases h : s.tm
  · rw [s.and_amask_normal h]
    rfl
  · have hm : s.amask.toNat = 2 ^ 8 - 1 := by simp [State.amask, h]
    rw [BitVec.toNat_and, hm, Nat.and_two_pow_sub_one_eq_mod]
    rfl

theorem romRead_eq (a : Addr) : s.romRead a = s.rom.read (if s.tm then a.toNat % 256 else a.toNat) := by
  rw [State.romRead, toNat_and_amask]

theorem readPort_eq (b : BitVec 3) : s.readPort b = s.port.read (if s.tm then 1 else b.toNat) := by
  rw [State.readPort, State.portLatch, apply_ite BitVec.toNat]
  rfl

end

/-- Settles O30: the mask of a ROM read, and the bank of a port read. -/
theorem testModeNarrowsRomAndPortReads : Obligations.TestModeNarrowsRomAndPortReads := by
  unfold Obligations.TestModeNarrowsRomAndPortReads
  exact fun s a b => ⟨romRead_eq s a, readPort_eq s b⟩

/-! The address decoder (R66). -/

/-- The one-of-four decode and its index undo one another. -/
theorem lineIndex_bankLine (n : BitVec 2) : lineIndex (bankLine n) = n := by
  revert n
  decide

theorem toNat_pageOfCm (cm : Nibble) : (pageOfCm cm).toNat = cm.toNat / 8 := by
  revert cm
  decide

/-- The page of `CM`, then bits 7:6 of the command. -/
theorem toNat_fullBank (cmd : Byte) (cm : Nibble) :
    (fullBank cmd cm).toNat = 4 * (cm.toNat / 8) + cmd.toNat / 64 := by
  have hlow : (cmd.extractLsb' 6 2).toNat = cmd.toNat / 64 := by
    have : cmd.toNat < 256 := cmd.isLt
    simp only [BitVec.extractLsb'_toNat, Nat.shiftRight_eq_div_pow]
    omega
  rw [fullBank, lineIndex_bankLine, BitVec.toNat_append, ← Nat.shiftLeft_add_eq_or_of_lt (BitVec.isLt _), hlow,
    BitVec.toNat_ofBool, toNat_pageOfCm, Nat.shiftLeft_eq]
  omega

/-- Settles O28: bank, group and character as numbers, the bank narrowed to its low bit in test mode. -/
theorem resolveReadsTheCommand : Obligations.ResolveReadsTheCommand := by
  unfold Obligations.ResolveReadsTheCommand
  refine fun s => ⟨?bank, ?group, ?char⟩
  case bank =>
    rw [State.resolve, apply_ite BitVec.toNat, BitVec.toNat_and, toNat_fullBank]
    exact if_congr Iff.rfl (Nat.and_one_is_mod _) rfl
  case group => simp [State.resolve, Nat.shiftRight_eq_div_pow]
  case char => simp [State.resolve]

/-! Canonical spaces. -/

section

variable {w size : Nat}

/-- No entry stands below the least address. -/
theorem Cells.read_of_lt {low a : Nat} {m : Cells w} (h : Cells.wfFrom size low m = true) (ha : a < low) :
    m.read a = unlisted w := by
  induction m generalizing low with
  | nil => rfl
  | cons e rest ih =>
    obtain ⟨b, v⟩ := e
    obtain ⟨hb, -, -, hrest⟩ := (Cells.wfFrom_cons _ _ _ _ _).1 h
    rw [Cells.read_cons, if_neg (by omega), ih hrest (by omega)]

theorem Cells.read_head_ne {low a : Nat} {u : BitVec w} {m : Cells w}
    (h : Cells.wfFrom size low ((a, u) :: m) = true) : Cells.read ((a, u) :: m) a ≠ unlisted w := by
  obtain ⟨-, -, hu, -⟩ := (Cells.wfFrom_cons _ _ _ _ _).1 h
  rwa [Cells.read_cons, if_pos rfl]

/-- A space that reads alike has an entry no later than this one's first. -/
theorem Cells.head_le_of_reads {low low' a b : Nat} {u v : BitVec w} {m m' : Cells w}
    (h : Cells.wfFrom size low ((a, u) :: m) = true) (h' : Cells.wfFrom size low' ((b, v) :: m') = true)
    (hreads : ∀ k, Cells.read ((a, u) :: m) k = Cells.read ((b, v) :: m') k) : b ≤ a := by
  by_contra hlt
  obtain ⟨-, hb, hv, hrest⟩ := (Cells.wfFrom_cons _ _ _ _ _).1 h'
  have hfrom : Cells.wfFrom size b ((b, v) :: m') = true := (Cells.wfFrom_cons _ _ _ _ _).2 ⟨le_rfl, hb, hv, hrest⟩
  exact Cells.read_head_ne h ((hreads a).trans (Cells.read_of_lt hfrom (not_le.1 hlt)))

/-- The rest of a space reads as the whole but where the first entry stands. -/
theorem Cells.read_rest {low a : Nat} {u : BitVec w} {m : Cells w} (h : Cells.wfFrom size low ((a, u) :: m) = true)
    (k : Nat) : m.read k = if k = a then unlisted w else Cells.read ((a, u) :: m) k := by
  obtain ⟨-, -, -, hrest⟩ := (Cells.wfFrom_cons _ _ _ _ _).1 h
  split
  case isTrue hk => exact Cells.read_of_lt hrest (by omega)
  case isFalse hk => rw [Cells.read_cons, if_neg hk]

/-- Spaces that read alike start with the same entry, and their rests read alike. -/
theorem Cells.eq_of_reads {low : Nat} {m m' : Cells w} (h : Cells.wfFrom size low m = true)
    (h' : Cells.wfFrom size low m' = true) (hreads : ∀ k, m.read k = m'.read k) : m = m' := by
  induction m generalizing low m' with
  | nil =>
    cases m' with
    | nil => rfl
    | cons e' rest' => exact absurd (hreads e'.1).symm (Cells.read_head_ne h')
  | cons e rest ih =>
    obtain ⟨a, u⟩ := e
    cases m' with
    | nil => exact absurd (hreads a) (Cells.read_head_ne h)
    | cons e' rest' =>
      obtain ⟨b, v⟩ := e'
      obtain rfl : a = b :=
        le_antisymm (Cells.head_le_of_reads h' h fun k => (hreads k).symm) (Cells.head_le_of_reads h h' hreads)
      obtain ⟨-, -, -, hrest⟩ := (Cells.wfFrom_cons _ _ _ _ _).1 h
      obtain ⟨-, -, -, hrest'⟩ := (Cells.wfFrom_cons _ _ _ _ _).1 h'
      have hvalue : u = v := by simpa using hreads a
      have htail : rest = rest' :=
        ih hrest hrest' fun k => by rw [Cells.read_rest h, Cells.read_rest h', hreads k]
      rw [hvalue, htail]

end

/-- Settles O31: by induction on the first space, entry by entry. -/
theorem canonicalCellsAreDeterminedByReads : Obligations.CanonicalCellsAreDeterminedByReads := by
  unfold Obligations.CanonicalCellsAreDeterminedByReads
  exact fun w size m m' h h' hreads => Cells.eq_of_reads h h' hreads

end Sys2Proof.Machine
end

section
/-! PROOFS. 41_register_and_immediate.md: FIN and LD (R153, R155). 42_add_subtract.md: SUB (R162). 44_accumulator.md: IAC, DAC,
RAL, RAR, TCC and DCL (R192, R195 to R198, R203). -/

namespace Sys2Proof.Machine

open Sys2Proof.Safety

variable (s : State)

/-! What each instruction is in terms of the state's operations. -/

theorem exec_fin (p : PairNo) :
    exec (.fin p) s = .next ((s.setPair p (s.romRead (inPage s.pc (s.pair 0)))).advance 1) := rfl

theorem exec_ld (r : RegNo) : exec (.ld r) s = .next ((s.setA (s.reg r)).advance 1) := rfl

theorem exec_sub (r : RegNo) :
    exec (.sub r) s = .next ((s.setAC (subWithBorrow s.a (s.reg r) s.c)).advance 1) := rfl

theorem exec_iac : exec .iac s = .next ((s.setAC (incrementAcc s.a)).advance 1) := rfl

theorem exec_dac : exec .dac s = .next ((s.setAC (decrementAcc s.a)).advance 1) := rfl

theorem exec_ral : exec .ral s = .next ((s.setAC (rotateLeft s.a s.c)).advance 1) := rfl

theorem exec_rar : exec .rar s = .next ((s.setAC (rotateRight s.a s.c)).advance 1) := rfl

theorem exec_tcc : exec .tcc s = .next ((s.setAC (BitVec.ofNat 4 s.c.toNat, false)).advance 1) := rfl

theorem exec_dcl : exec .dcl s = .next ((s.setCm (dclTable (s.a.extractLsb' 0 3))).advance 1) := rfl

/-! The results as the claims write them. -/

theorem pair_zero_eq : s.pair 0 = regAt s 0 ++ regAt s 1 := by
  rw [State.pair, ← regAt_even, ← regAt_odd]
  rfl

/-- Complement and add is subtraction with borrow: the sum is 16 more than the difference, so its bit 4 is set exactly when
nothing is borrowed (R162). -/
theorem subWithBorrow_eq (a x : Nibble) (c : Bool) :
    subWithBorrow a x c = (BitVec.ofNat 4 ((a.toNat + 32 - (x.toNat + c.toNat)) % 16),
      decide (x.toNat + c.toNat ≤ a.toNat)) := by
  have ha : a.toNat < 16 := a.isLt
  have hx : x.toNat < 16 := x.isLt
  have hc : c.toNat ≤ 1 := c.toNat_le
  have hnarrow : subWithBorrow a x c = narrow (a.toNat + (15 - x.toNat) + (1 - c.toNat)) := rfl
  have hvalue : (a.toNat + (15 - x.toNat) + (1 - c.toNat)) % 16 = (a.toNat + 32 - (x.toNat + c.toNat)) % 16 := by omega
  have hcarry : 15 < a.toNat + (15 - x.toNat) + (1 - c.toNat) ↔ x.toNat + c.toNat ≤ a.toNat := by omega
  rw [hnarrow, narrow_eq_of_lt (by omega), hvalue, decide_eq_decide.2 hcarry]

theorem incrementAcc_eq (a : Nibble) : incrementAcc a = (a + 1, decide (a = 15)) := by
  revert a
  decide

theorem decrementAcc_eq (a : Nibble) : decrementAcc a = (a - 1, decide (a ≠ 0)) := by
  revert a
  decide

/-- The five bits `C ‖ A`, the carry on top (R195, R196). -/
theorem rotateLeft_eq (a : Nibble) (c : Bool) :
    rotateLeft a c = (((BitVec.ofBool c ++ a).rotateLeft 1).extractLsb' 0 4,
      ((BitVec.ofBool c ++ a).rotateLeft 1).getLsbD 4) := by
  revert a c
  decide

theorem rotateRight_eq (a : Nibble) (c : Bool) :
    rotateRight a c = (((BitVec.ofBool c ++ a).rotateRight 1).extractLsb' 0 4,
      ((BitVec.ofBool c ++ a).rotateRight 1).getLsbD 4) := by
  revert a c
  decide

theorem ofNat_toNat_bool (c : Bool) : BitVec.ofNat 4 c.toNat = if c then 1 else 0 := by
  cases c <;> rfl

theorem dclTable_eq_getD (a : Nibble) :
    dclTable (a.extractLsb' 0 3) = [1, 2, 4, 3, 8, 10, 12, 14].getD (a.toNat % 8) 0 := by
  revert a
  decide

/-- Settles O18: the address from pair 0 in the instruction's page, the byte's nibbles, then the advance by one byte. -/
theorem finFetchesThroughPairZero : Obligations.FinFetchesThroughPairZero := by
  unfold Obligations.FinFetchesThroughPairZero
  intro p s addr byte
  have hbyte : s.romRead (inPage s.pc (s.pair 0)) = byte := by
    rw [romRead_eq, inPage_eq, pair_zero_eq]
    rfl
  rw [exec_fin, hbyte, setPair_eq_ofNat, advance_eq]
  rfl

/-- Settles O20: the register by number, then the advance by one byte. -/
theorem ldCopiesTheRegister : Obligations.LdCopiesTheRegister := by
  unfold Obligations.LdCopiesTheRegister
  intro r s
  rw [exec_ld, setA_eq, regAt_toNat, advance_eq]
  rfl

/-- Settles O23: the difference and the borrow, then the advance by one byte. -/
theorem subSubtractsWithBorrow : Obligations.SubSubtractsWithBorrow := by
  unfold Obligations.SubSubtractsWithBorrow
  intro r s
  rw [exec_sub, subWithBorrow_eq, setAC_eq, regAt_toNat, advance_eq]
  rfl

/-- Settles O33: each count with its carry, then the advance by one byte. -/
theorem iacAndDacCountWithCarry : Obligations.IacAndDacCountWithCarry := by
  unfold Obligations.IacAndDacCountWithCarry
  refine fun s => ⟨?iac, ?dac⟩
  case iac =>
    rw [exec_iac, incrementAcc_eq, setAC_eq, advance_eq]
    rfl
  case dac =>
    rw [exec_dac, decrementAcc_eq, setAC_eq, advance_eq]
    rfl

/-- Settles O34: the two rotations of `C ‖ A` and the moved carry, each with the advance by one byte. -/
theorem rotatesMoveFiveBits : Obligations.RotatesMoveFiveBits := by
  unfold Obligations.RotatesMoveFiveBits
  refine fun s => ⟨?ral, ?rar, ?tcc⟩
  case ral =>
    rw [exec_ral, rotateLeft_eq, setAC_eq, advance_eq]
    rfl
  case rar =>
    rw [exec_rar, rotateRight_eq, setAC_eq, advance_eq]
    rfl
  case tcc =>
    rw [exec_tcc, ofNat_toNat_bool, setAC_eq, advance_eq]
    rfl

/-- Settles O37: the table of R203, then the advance by one byte. -/
theorem dclWritesTheCommandLine : Obligations.DclWritesTheCommandLine := by
  unfold Obligations.DclWritesTheCommandLine
  intro s
  rw [exec_dcl, dclTable_eq_getD, advance_eq]
  rfl

end Sys2Proof.Machine
end

section
/-! PROOFS. 43_memory_io.md: the stores and loads of the resolved cell (R171 to R181). -/

namespace Sys2Proof.Machine

open Sys2Proof.Safety

variable (s : State)

/-! What each instruction is in terms of the state's operations. -/

theorem exec_wrm :
    exec .wrm s = .next ((s.writeChar s.resolve.bank s.resolve.group s.resolve.char s.a).advance 1) := rfl

theorem exec_wmp : exec .wmp s = .next ((s.writePort s.resolve.bank s.a).advance 1) := rfl

theorem exec_rdm :
    exec .rdm s = .next ((s.setA (s.readChar s.resolve.bank s.resolve.group s.resolve.char)).advance 1) := rfl

/-- WR0 to WR3 have one meaning, for four status characters. -/
theorem exec_wr {e : Instr × BitVec 2}
    (he : e ∈ [(Instr.wr0, 0#2), (Instr.wr1, 1#2), (Instr.wr2, 2#2), (Instr.wr3, 3#2)]) :
    exec e.1 s = .next ((s.writeStatus s.resolve.bank s.resolve.group e.2 s.a).advance 1) := by
  simp only [List.mem_cons, List.not_mem_nil, or_false] at he
  rcases he with rfl | rfl | rfl | rfl <;> rfl

/-- RD0 to RD3 have one meaning, for four status characters by number. -/
theorem exec_rd {e : Instr × Nat} (he : e ∈ [(Instr.rd0, 0), (Instr.rd1, 1), (Instr.rd2, 2), (Instr.rd3, 3)]) :
    exec e.1 s = .next ((s.setA (s.status.read
      (s.resolve.bank.toNat * 16 + s.resolve.group.toNat * 4 + e.2))).advance 1) := by
  have hload (i : BitVec 2) : s.loadStatus i = (s.setA (s.status.read
      (s.resolve.bank.toNat * 16 + s.resolve.group.toNat * 4 + i.toNat))).advance 1 := by
    rw [State.loadStatus, State.readStatus, statusIndex_eq]
  simp only [List.mem_cons, List.not_mem_nil, or_false] at he
  rcases he with rfl | rfl | rfl | rfl
  · exact congrArg _ (hload 0)
  · exact congrArg _ (hload 1)
  · exact congrArg _ (hload 2)
  · exact congrArg _ (hload 3)

/-- Settles O24: the RAM's read-after-write law at the resolved character; the advance leaves memory alone. -/
theorem wrmStoresTheCharacter : Obligations.WrmStoresTheCharacter := by
  unfold Obligations.WrmStoresTheCharacter
  refine fun s => ⟨_, exec_wrm s, ?stored, fun b g ch hne => ?others, fun k hk => ?indices, ?frame⟩
  case stored =>
    exact (s.readChar_writeChar _ _ _ _ _ _ s.a).trans (if_pos ⟨rfl, rfl, rfl⟩)
  case others =>
    have hne : ¬ (b = s.resolve.bank ∧ g = s.resolve.group ∧ ch = s.resolve.char) := by simpa using hne
    exact (s.readChar_writeChar _ _ _ _ _ _ s.a).trans (if_neg hne)
  case indices => exact Cells.read_write_other s.ram s.a hk
  case frame => rfl

/-- Settles O25: the write at the latch of the resolved bank; the advance leaves memory alone. -/
theorem wmpStoresThePort : Obligations.WmpStoresThePort := by
  unfold Obligations.WmpStoresThePort
  refine fun s => ⟨_, exec_wmp s, ?stored, fun k hk => ?others, rfl⟩
  case stored => exact Cells.read_write_same s.port _ s.a
  case others => exact Cells.read_write_other s.port s.a hk

/-- Settles O26: the write at the status character's index; the advance leaves memory alone. -/
theorem wrStoresItsStatusCharacter : Obligations.WrStoresItsStatusCharacter := by
  unfold Obligations.WrStoresItsStatusCharacter
  refine fun s e he => ⟨_, exec_wr s he, ?stored, fun k hk => ?others, rfl⟩
  case stored => exact Cells.read_write_same s.status _ s.a
  case others => exact Cells.read_write_other s.status s.a hk

/-- Settles O27: the read at the cell's flat index, then the advance by one byte. -/
theorem readsLoadTheResolvedCell : Obligations.ReadsLoadTheResolvedCell := by
  unfold Obligations.ReadsLoadTheResolvedCell
  refine fun s => ⟨?rdm, fun e he => ?rd⟩
  case rdm =>
    rw [exec_rdm, State.readChar, ramIndex_eq, setA_eq, advance_eq]
    rfl
  case rd =>
    rw [exec_rd s he, setA_eq, advance_eq]
    rfl

end Sys2Proof.Machine
end

section
/-! PROOFS. 10_state.md section 1: which instruction writes which piece of state (R20, R23), and what no instruction reads. -/

namespace Sys2Proof.Machine

open Sys2Proof.Safety

/-! The frame of every instruction. -/

/-- The column "written by" of R20: `u` differs from `s` only where `i` is listed as a writer. A field that is not named
when a value is built is one that `i` leaves alone by its very record update. -/
structure KeepsTheRest (i : Instr) (s u : State) : Prop where
  a : oneOf accWriters i = false → u.a = s.a := by intro _; rfl
  c : oneOf carryWriters i = false → u.c = s.c := by intro _; rfl
  x : oneOf regWriters i = false → u.x = s.x := by intro _; rfl
  sp : oneOf ["JMS", "BBL"] i = false → u.sp = s.sp := by intro _; rfl
  pcs : oneOf ["JMS", "BBL"] i = false → ∃ p, u.pcs = s.pcs.set 0 p := by intro _; exact ⟨_, rfl⟩
  cmd : i.mnemonic ≠ "SRC" → u.cmd = s.cmd := by intro _; rfl
  cm : i.mnemonic ≠ "DCL" → u.cm = s.cm := by intro _; rfl
  ram : i.mnemonic ≠ "WRM" → u.ram = s.ram := by intro _; rfl
  port : i.mnemonic ≠ "WMP" → u.port = s.port := by intro _; rfl
  status : oneOf ["WR0", "WR1", "WR2", "WR3"] i = false → u.status = s.status := by intro _; rfl
  err : oneOf (["JMS", "BBL"] ++ unimplementedRows) i = false → u.err = s.err := by intro _; rfl
  diag : oneOf (["JMS", "BBL"] ++ unimplementedRows) i = false → u.diag = s.diag := by intro _; rfl
  t : u.t = s.t := by rfl
  tm : u.tm = s.tm := by rfl
  rom : u.rom = s.rom := by rfl
  cyc : u.cyc = s.cyc := by rfl
  sched : u.sched = s.sched := by rfl
  active : u.active = s.active := by rfl

/-- A listed writer is not held to leave its field alone. -/
theorem of_listed {ms : List String} {i : Instr} {p : Prop} (hi : oneOf ms i = true) (h : oneOf ms i = false) : p :=
  absurd (h.symm.trans hi) Bool.false_ne_true

/-- Every instruction answers a next state (R239) and keeps to its column of R20. -/
theorem exec_keepsTheRest (i : Instr) (s : State) : ∃ t, exec i s = .next t ∧ KeepsTheRest i s t := by
  cases i
  case jcn c a => exact ⟨_, exec_jcn s c a, {}⟩
  case isz r a => exact ⟨_, exec_isz s r a, { x := of_listed rfl }⟩
  case jms h l =>
    by_cases hsp : s.sp = 3
    · exact ⟨_, exec_jms_of_full hsp h l, { err := of_listed rfl, diag := of_listed rfl }⟩
    · exact ⟨_, exec_jms_of_room hsp h l, { sp := of_listed rfl, pcs := of_listed rfl }⟩
  case bbl d =>
    by_cases hsp : s.sp = 0
    · exact ⟨_, exec_bbl_of_base hsp d, { err := of_listed rfl, diag := of_listed rfl }⟩
    · exact ⟨_, exec_bbl_of_held hsp d, { a := of_listed rfl, sp := of_listed rfl, pcs := of_listed rfl }⟩
  case jin | jun => exact ⟨_, rfl, {}⟩
  case ld | ldm | rdm | rd0 | rd1 | rd2 | rd3 | cma | kbp => exact ⟨_, rfl, { a := of_listed rfl }⟩
  case cmc | stc => exact ⟨_, rfl, { c := of_listed rfl }⟩
  case add | sub | clb | iac | ral | rar | tcc | dac | tcs | daa =>
    exact ⟨_, rfl, { a := of_listed rfl, c := of_listed rfl }⟩
  case fim | fin | inc => exact ⟨_, rfl, { x := of_listed rfl }⟩
  case xch => exact ⟨_, rfl, { a := of_listed rfl, x := of_listed rfl }⟩
  case src => exact ⟨_, rfl, { cmd := absurd rfl }⟩
  case dcl => exact ⟨_, rfl, { cm := absurd rfl }⟩
  case wrm => exact ⟨_, rfl, { ram := absurd rfl }⟩
  case wmp => exact ⟨_, rfl, { port := absurd rfl }⟩
  case wr0 | wr1 | wr2 | wr3 => exact ⟨_, rfl, { status := of_listed rfl }⟩
  case unimpl0x | unimplE2 | unimplE3 | unimplE8 | unimplEA | unimplEB | unimplF1 | unimplFE | unimplFF =>
    exact ⟨_, rfl, { err := of_listed rfl, diag := of_listed rfl }⟩

theorem keepsTheRest_of_exec {i : Instr} {s t : State} (h : exec i s = .next t) : KeepsTheRest i s t := by
  obtain ⟨u, hu, hrest⟩ := exec_keepsTheRest i s
  obtain rfl : u = t := by simpa [hu] using h
  exact hrest

/-- A write of slot 0 is the write of what slot 0 then holds. -/
theorem pcs_eq_set_head {v v' : Vector Addr 4} (h : ∃ p, v' = v.set 0 p) : v' = v.set 0 v'[0] := by
  obtain ⟨p, rfl⟩ := h
  rw [Vector.getElem_set_self]

/-- Settles O44: the column of R20, field by field. -/
theorem eachCellHasOnlyItsWriters : Obligations.EachCellHasOnlyItsWriters := by
  unfold Obligations.EachCellHasOnlyItsWriters
  intro i s
  obtain ⟨t, ht, hrest⟩ := exec_keepsTheRest i s
  exact ⟨t, ht, hrest.a, hrest.c, hrest.x, fun h => ⟨hrest.sp h, pcs_eq_set_head (hrest.pcs h)⟩, hrest.cmd, hrest.cm,
    hrest.ram, hrest.port, hrest.status, fun h => ⟨hrest.err h, hrest.diag h⟩, hrest.t, hrest.tm, hrest.rom, hrest.cyc,
    hrest.sched, hrest.active⟩

/-! Two runs of one instruction, from states that differ in what it does not read. -/

variable (s : State)

/-- Settles O45: JCN apart, the result is built without a look at `T`. -/
theorem onlyJcnReadsTheTestFlag : Obligations.OnlyJcnReadsTheTestFlag := by
  unfold Obligations.OnlyJcnReadsTheTestFlag
  intro i s v hi
  cases i
  case jcn c a => exact absurd rfl hi
  case isz r a => exact ⟨_, exec_isz s r a, exec_isz _ r a⟩
  case jms h l =>
    by_cases hsp : s.sp = 3
    · exact ⟨_, exec_jms_of_full hsp h l, exec_jms_of_full (s := s.setT v) hsp h l⟩
    · exact ⟨_, exec_jms_of_room hsp h l, exec_jms_of_room (s := s.setT v) hsp h l⟩
  case bbl d =>
    by_cases hsp : s.sp = 0
    · exact ⟨_, exec_bbl_of_base hsp d, exec_bbl_of_base (s := s.setT v) hsp d⟩
    · exact ⟨_, exec_bbl_of_held hsp d, exec_bbl_of_held (s := s.setT v) hsp d⟩
  all_goals exact ⟨_, rfl, rfl⟩

/-- `s` with other error bits, cycle count, scheduler state and `ACTIVE` (R37 to R40). -/
def State.withBookkeeping (e : Err) (n : Nat) (q : Sched) (b : Bool) : State :=
  { s with err := e, cyc := n, sched := q, active := b }

/-- An instruction carries other bookkeeping along and does the same to the rest; only the error bits, which it may set, are
its own. -/
theorem exec_withBookkeeping (i : Instr) (e : Err) (n : Nat) (q : Sched) (b : Bool) :
    ∃ t e', exec i s = .next t ∧ exec i (s.withBookkeeping e n q b) = .next (t.withBookkeeping e' n q b) := by
  cases i
  case jcn c a => exact ⟨_, _, exec_jcn s c a, exec_jcn _ c a⟩
  case isz r a => exact ⟨_, _, exec_isz s r a, exec_isz _ r a⟩
  case jms h l =>
    by_cases hsp : s.sp = 3
    · exact ⟨_, _, exec_jms_of_full hsp h l, exec_jms_of_full (s := s.withBookkeeping e n q b) hsp h l⟩
    · exact ⟨_, _, exec_jms_of_room hsp h l, exec_jms_of_room (s := s.withBookkeeping e n q b) hsp h l⟩
  case bbl d =>
    by_cases hsp : s.sp = 0
    · exact ⟨_, _, exec_bbl_of_base hsp d, exec_bbl_of_base (s := s.withBookkeeping e n q b) hsp d⟩
    · exact ⟨_, _, exec_bbl_of_held hsp d, exec_bbl_of_held (s := s.withBookkeeping e n q b) hsp d⟩
  all_goals exact ⟨_, _, rfl, rfl⟩

/-- Settles O46: `ExecuteOne` clears the last diagnostic, its instruction carries the bookkeeping along, and the cost is that
of the same opcode byte. -/
theorem bookkeepingNeverInfluencesExecution : Obligations.BookkeepingNeverInfluencesExecution := by
  unfold Obligations.BookkeepingNeverInfluencesExecution
  intro s e n q b d
  obtain ⟨u, e', hu, hu'⟩ := exec_withBookkeeping s.clearDiag s.fetch e n q b
  have hcost : (u.retire (cost s.fetchOp)).cyc - s.cyc = cost s.fetchOp := by
    rw [State.retire_cyc, (keepsTheRest_of_exec hu).cyc, State.clearDiag_cyc, Nat.add_sub_cancel_left]
  refine ⟨u.retire (cost s.fetchOp), e', step_of_exec s hu, ?_⟩
  rw [hcost]
  exact step_of_exec { s with err := e, cyc := n, sched := q, active := b, diag := d } hu'

end Sys2Proof.Machine
end

section
/-! PROOFS. 50_scheduler_and_host.md section 1: `ExecuteOne` (R221, R239), and how far an instruction advances (R150, R212). -/

namespace Sys2Proof.Machine

open Sys2Proof.Safety

/-- Settles O43: each instruction outside the family ends with the advance by its own length. -/
theorem othersAdvanceByTheirLength : Obligations.OthersAdvanceByTheirLength := by
  unfold Obligations.OthersAdvanceByTheirLength
  intro i s hi
  cases i
  case jcn | jin | jun | jms | isz | bbl => exact of_listed rfl hi
  all_goals exact ⟨_, rfl, rfl, rfl⟩

variable (s : State)

/-- An opcode byte whose instruction is one byte long decodes to it whatever byte follows. -/
theorem decodeOp_eq_of_one_byte {op : Byte} (h : opLength op ≠ 2) (b2 : Byte) : decodeOp op b2 = decodeOp op 0 := by
  have hbytes : encode (decodeOp op 0) = [op] := by rw [encode_decodeOp, if_neg h]
  obtain ⟨hop, hoperand⟩ := List.cons.inj hbytes
  have hround := decodeOp_opcodeByte (decodeOp op 0) b2
  rwa [hop, hoperand] at hround

/-- `decode` reads from two bytes the instruction that the fetch reads from them. -/
theorem decodeOp_of_decode {op b2 : Byte} {i : Instr} {rest : List Byte} (h : decode [op, b2] = .ok (i, rest)) :
    decodeOp op b2 = i := by
  by_cases hlen : opLength op = 2
  · rw [decode_of_two_bytes hlen] at h
    exact congrArg Prod.fst (Except.ok.inj h)
  · rw [decode_of_one_byte hlen] at h
    exact (decodeOp_eq_of_one_byte hlen b2).trans (congrArg Prod.fst (Except.ok.inj h))

/-- Settles O41: the fetch decodes the same two bytes, and the instruction answers a next state. -/
theorem stepRunsTheDecodedInstruction : Obligations.StepRunsTheDecodedInstruction := by
  unfold Obligations.StepRunsTheDecodedInstruction
  intro s i rest m op hdecode
  have hfetch : s.fetch = i := decodeOp_of_decode hdecode
  obtain ⟨t, ht, -⟩ := exec_keepsTheRest i s.clearDiag
  rw [step_of_exec s (hfetch ▸ ht), show exec i { s with diag := none } = .next t from ht]
  rfl

theorem cost_le_two (op : Byte) : cost op ≤ 2 := by
  rw [cost]
  split
  case h_2 | h_3 => split <;> decide
  all_goals decide

/-- What a step leaves of its instruction's frame: `retire` adds the cost and sets `ACTIVE`. -/
theorem step_frame {t : State} (h : step s = .next t) :
    t.cyc = s.cyc + cost s.fetchOp ∧ t.active = true ∧ t.sched = s.sched ∧ t.t = s.t ∧ t.tm = s.tm ∧ t.rom = s.rom := by
  obtain ⟨u, hu, rfl⟩ := exec_of_step s h
  have hrest := keepsTheRest_of_exec hu
  exact ⟨congrArg (· + cost s.fetchOp) hrest.cyc, rfl, hrest.sched, hrest.t, hrest.tm, hrest.rom⟩

/-- Settles O42: the frame of a step, and the bounds of its cost. -/
theorem everyStepCompletes : Obligations.EveryStepCompletes := by
  unfold Obligations.EveryStepCompletes
  intro s
  obtain ⟨t, ht, -, -⟩ := step_advances_cyc s
  obtain ⟨hcyc, hframe⟩ := step_frame s ht
  exact ⟨t, ht, hcyc, cost_pos _, cost_le_two _, hframe⟩

end Sys2Proof.Machine
end

section
/-! PROOFS. 60_exceptions.md sections 1 and 3: which diagnostic a step hands back (R261, R267, R270), and the sticky bits (R262,
R268). -/

namespace Sys2Proof.Machine

open Sys2Proof.Safety

variable (s : State)

/-- The one meaning of the nine rows, for an instruction known by its row alone. -/
theorem exec_of_unimplementedRow {i : Instr} (hi : oneOf unimplementedRows i = true) :
    exec i s = .next (s.unimplemented i.opcodeByte) := by
  cases i
  case unimpl0x n => exact exec_unimplemented s (n := n) (by simp)
  case unimplE2 | unimplE3 | unimplE8 | unimplEA | unimplEB | unimplF1 | unimplFE | unimplFF =>
    exact exec_unimplemented s (n := 0) (by simp)
  all_goals exact absurd hi Bool.false_ne_true

/-- An instruction raises one diagnostic, whose sticky bit it sets, or leaves the bits and the diagnostic alone (R262). -/
theorem exec_raises_or_keeps (i : Instr) : ∃ t, exec i s = .next t ∧
    ((t.err = s.err ∧ t.diag = s.diag) ∨ ∃ d, t.err = s.err.record d.kind ∧ t.diag = some d) := by
  obtain ⟨t, ht, hrest⟩ := exec_keepsTheRest i s
  by_cases hunimpl : oneOf unimplementedRows i = true
  · exact ⟨_, exec_of_unimplementedRow s hunimpl, .inr ⟨_, rfl, rfl⟩⟩
  cases i
  case jms h l =>
    by_cases hsp : s.sp = 3
    · exact ⟨_, exec_jms_of_full hsp h l, .inr ⟨_, rfl, rfl⟩⟩
    · exact ⟨_, exec_jms_of_room hsp h l, .inl ⟨rfl, rfl⟩⟩
  case bbl d =>
    by_cases hsp : s.sp = 0
    · exact ⟨_, exec_bbl_of_base hsp d, .inr ⟨_, rfl, rfl⟩⟩
    · exact ⟨_, exec_bbl_of_held hsp d, .inl ⟨rfl, rfl⟩⟩
  case unimpl0x | unimplE2 | unimplE3 | unimplE8 | unimplEA | unimplEB | unimplF1 | unimplFE | unimplFF =>
    exact absurd rfl hunimpl
  all_goals exact ⟨t, ht, .inl ⟨hrest.err rfl, hrest.diag rfl⟩⟩

theorem bit_record (e : Err) (k k' : DiagKind) : (e.record k').bit k = (e.bit k || decide (k' = k)) := by
  cases k <;> cases k' <;> simp [Err.record, Err.bit]

/-- The step starts with no diagnostic, and its instruction raises one with its bit or none. -/
theorem step_err_bit : ∃ t, step s = .next t ∧
    ∀ k, t.err.bit k = (s.err.bit k || decide (t.diag.map (·.kind) = some k)) := by
  obtain ⟨t, ht, h⟩ := exec_raises_or_keeps s.clearDiag s.fetch
  refine ⟨t.retire (cost s.fetchOp), step_of_exec s ht, fun k => ?_⟩
  rw [State.retire_err, State.retire_diag]
  rcases h with ⟨herr, hdiag⟩ | ⟨d, herr, hdiag⟩
  case inl => simp [herr, hdiag]
  case inr => simp [herr, hdiag, bit_record]

/-- Settles O40: the bits after a step, kind by kind. -/
theorem errorBitsAreSticky : Obligations.ErrorBitsAreSticky :=
  step_err_bit

/-! The diagnostic by the opcode byte. -/

theorem toNat_highNibble (op : Byte) : (highNibble op).toNat = op.toNat / 16 := by
  rw [highNibble, extractLsb'_high_eq_ofNat, toNat_ofNat_of_lt (Nat.div_lt_of_lt_mul op.isLt)]

theorem decodeOp_eq_jms {op : Byte} (h : op.toNat / 16 = 5) (b2 : Byte) : decodeOp op b2 = .jms (lowNibble op) b2 := by
  rw [decodeOp, toNat_highNibble, h]
  rfl

theorem decodeOp_eq_bbl {op : Byte} (h : op.toNat / 16 = 12) (b2 : Byte) : decodeOp op b2 = .bbl (lowNibble op) := by
  rw [decodeOp, toNat_highNibble, h]
  rfl

theorem oneOf_raisers_decodeOp {op : Byte} (hjms : op.toNat / 16 ≠ 5) (hbbl : op.toNat / 16 ≠ 12)
    (hunimpl : op ∉ unimplementedBytes) (b2 : Byte) :
    oneOf (["JMS", "BBL"] ++ unimplementedRows) (decodeOp op b2) = false := by
  rw [oneOf_decodeOp]
  revert op
  decide

theorem high_of_mem_unimplementedBytes :
    ∀ op ∈ unimplementedBytes, op.toNat / 16 ≠ 5 ∧ op.toNat / 16 ≠ 12 := by
  decide

variable {s}

/-- The diagnostic of the instruction that an opcode byte decodes to, from a state with none. -/
theorem exec_decodeOp_diag (hs : s.diag = none) (op b2 : Byte) : ∃ t, exec (decodeOp op b2) s = .next t ∧
    t.diag =
      if op.toNat / 16 = 5 ∧ s.sp = 3 then some ⟨.stackOverflow, s.pcs[0], op⟩
      else if op.toNat / 16 = 12 ∧ s.sp = 0 then some ⟨.stackUnderflow, s.pcs[0], op⟩
      else if op ∈ unimplementedBytes then some ⟨.unimplementedOpcode, s.pcs[0], op⟩
      else none := by
  have hop := opcodeByte_decodeOp op b2
  have hhigh := high_of_mem_unimplementedBytes op
  by_cases hunimpl : op ∈ unimplementedBytes
  case pos =>
    refine ⟨_, exec_of_unimplementedRow s ((oneOf_unimplementedRows_decodeOp op b2).2 hunimpl), ?_⟩
    simp [unimplemented_eq, hop, hunimpl, hhigh hunimpl, State.pc]
  by_cases hjms : op.toNat / 16 = 5
  case pos =>
    rw [decodeOp_eq_jms hjms] at hop ⊢
    by_cases hsp : s.sp = 3
    · exact ⟨_, exec_jms_of_full hsp _ _, by simp [hop, hjms, hsp, State.pc]⟩
    · exact ⟨_, exec_jms_of_room hsp _ _, by simpa [hs, hjms, hunimpl] using hsp⟩
  by_cases hbbl : op.toNat / 16 = 12
  case pos =>
    rw [decodeOp_eq_bbl hbbl] at hop ⊢
    by_cases hsp : s.sp = 0
    · exact ⟨_, exec_bbl_of_base hsp _, by simp [hop, hbbl, hsp, State.pc]⟩
    · exact ⟨_, exec_bbl_of_held hsp _, by simpa [hs, hbbl, hunimpl] using hsp⟩
  obtain ⟨t, ht, hrest⟩ := exec_keepsTheRest (decodeOp op b2) s
  refine ⟨t, ht, (hrest.diag (oneOf_raisers_decodeOp hjms hbbl hunimpl b2)).trans ?_⟩
  simp [hs, hjms, hbbl, hunimpl]

/-- Settles O39: the step clears the diagnostic first, and its instruction is the one that the opcode byte decodes to. -/
theorem stepHandsBackAtMostOneDiagnostic : Obligations.StepHandsBackAtMostOneDiagnostic := by
  unfold Obligations.StepHandsBackAtMostOneDiagnostic
  intro s
  obtain ⟨t, ht, hdiag⟩ := exec_decodeOp_diag s.clearDiag_diag s.fetchOp s.fetchOperand
  exact ⟨t.retire (cost s.fetchOp), step_of_exec s ht, hdiag⟩

end Sys2Proof.Machine
end

section
/-! PROOFS. 10_state.md section 7: the invariant (R42, R32) at reset and after every step. -/

namespace Sys2Proof.Machine

open Sys2Proof.Safety

variable {s t : State} {i : Instr}

theorem eq_of_exec {u : State} (hu : exec i s = .next u) (h : exec i s = .next t) : t = u :=
  Host.Outcome.next.inj (h.symm.trans hu)

/-! The memory's canonical form. -/

/-- The instructions that write RAM, a port latch or a status character (R20). -/
def memoryWriters : List String := ["WRM", "WMP", "WR0", "WR1", "WR2", "WR3"]

theorem KeepsTheRest.memoryWf (hrest : KeepsTheRest i s t) (hi : oneOf memoryWriters i = false)
    (hs : s.memoryWf = true) : t.memoryWf = true := by
  obtain ⟨hwrm, hwmp, hwr⟩ : i.mnemonic ≠ "WRM" ∧ i.mnemonic ≠ "WMP" ∧ oneOf ["WR0", "WR1", "WR2", "WR3"] i = false := by
    simpa [oneOf, memoryWriters] using hi
  rwa [State.memoryWf, hrest.rom, hrest.ram hwrm, hrest.port hwmp, hrest.status hwr]

theorem exec_keeps_memoryWf (h : exec i s = .next t) (hs : s.memoryWf = true) : t.memoryWf = true := by
  have hrest := keepsTheRest_of_exec h
  cases i
  case wrm => exact eq_of_exec (exec_wrm s) h ▸ s.writeChar_memoryWf _ _ _ _ hs
  case wmp => exact eq_of_exec (exec_wmp s) h ▸ s.writePort_memoryWf _ _ hs
  case wr0 | wr1 | wr2 | wr3 => exact eq_of_exec rfl h ▸ s.writeStatus_memoryWf _ _ _ _ hs
  all_goals exact hrest.memoryWf rfl hs

/-! The stack's tail. -/

/-- A write of slot 0 leaves the tail alone. -/
theorem tailZero_of_set_head (hsp : t.sp = s.sp) (hpcs : ∃ p, t.pcs = s.pcs.set 0 p) (hs : tailZero s) :
    tailZero t := by
  obtain ⟨p, hp⟩ := hpcs
  intro k hk
  rw [hsp] at hk
  have hk0 : (0 : Nat) ≠ k.val := by omega
  have hslot : t.pcs[k] = s.pcs[k] := by simp [hp, hk0]
  rw [hslot, hs k hk]

/-- A call moves each slot of the tail up by one, as it moves the depth. -/
theorem tailZero_push (hsp : s.sp ≠ 3) (hs : tailZero s) (target ret : Addr) : tailZero (s.push target ret) := by
  have hlt : s.sp.toNat < 3 := (toNat_lt_three_iff s.sp).2 hsp
  have hdepth : (s.push target ret).sp.toNat = s.sp.toNat + 1 := by
    rw [State.push_sp, BitVec.toNat_add]
    exact Nat.mod_eq_of_lt (Nat.add_lt_add_right hlt 1)
  intro k hk
  rw [hdepth] at hk
  match k with
  | 0 | 1 => exact absurd hk (by simp)
  | 2 => exact hs 1 (Nat.lt_of_succ_lt_succ hk)
  | 3 => exact hs 2 (Nat.lt_of_succ_lt_succ hk)

/-- A return moves each slot of the tail down by one, as it moves the depth, and vacates the last. -/
theorem tailZero_pop (hsp : s.sp ≠ 0) (hs : tailZero s) : tailZero s.pop := by
  have hpos : 0 < s.sp.toNat := (toNat_pos_iff s.sp).2 hsp
  have hdepth : s.sp.toNat = s.pop.sp.toNat + 1 := by
    rw [State.pop_sp]
    bv_omega
  intro k hk
  match k with
  | 0 => exact absurd hk (Nat.not_lt_zero _)
  | 1 => exact hs 2 (hdepth ▸ Nat.succ_lt_succ hk)
  | 2 => exact hs 3 (hdepth ▸ Nat.succ_lt_succ hk)
  | 3 => rfl

theorem exec_keeps_tailZero (h : exec i s = .next t) (hs : tailZero s) : tailZero t := by
  have hrest := keepsTheRest_of_exec h
  cases i
  case jms p l =>
    by_cases hsp : s.sp = 3
    · exact eq_of_exec (exec_jms_of_full hsp p l) h ▸ tailZero_of_set_head (s := s) rfl ⟨_, rfl⟩ hs
    · exact eq_of_exec (exec_jms_of_room hsp p l) h ▸ tailZero_push hsp hs _ _
  case bbl d =>
    by_cases hsp : s.sp = 0
    · exact eq_of_exec (exec_bbl_of_base hsp d) h ▸ tailZero_of_set_head (s := s) rfl ⟨_, rfl⟩ hs
    · exact eq_of_exec (exec_bbl_of_held hsp d) h ▸ tailZero_pop hsp hs
  all_goals exact tailZero_of_set_head (hrest.sp rfl) (hrest.pcs rfl) hs

/-! The command line. -/

/-- `CM` gets values of DCL's table alone (R32, R203). -/
theorem cmLegal_setCm_dclTable (s : State) (n : BitVec 3) : cmLegal (s.setCm (dclTable n)) = true := by
  have htable : ∀ n, [0, 1, 2, 3, 4, 8, 10, 12, 14].contains (dclTable n) = true := by decide
  exact htable n

theorem exec_keeps_cmLegal (h : exec i s = .next t) (hs : cmLegal s = true) : cmLegal t = true := by
  have hrest := keepsTheRest_of_exec h
  by_cases hi : oneOf ["DCL"] i = false
  · rwa [cmLegal, hrest.cm (by simpa [oneOf] using hi)]
  cases i
  case dcl => exact eq_of_exec (exec_dcl s) h ▸ cmLegal_setCm_dclTable s _
  all_goals exact absurd rfl hi

theorem exec_keeps_hostInv (h : exec i s = .next t) (hs : HostInv s) : HostInv t :=
  ⟨exec_keeps_memoryWf h hs.1, exec_keeps_cmLegal h hs.2⟩

/-- `ExecuteOne` adds to its instruction none of the state that the invariant speaks of. -/
theorem step_keeps_hostInv (hs : HostInv s) (h : step s = .next t) : HostInv t := by
  obtain ⟨u, hu, rfl⟩ := exec_of_step s h
  have hinv : HostInv u := exec_keeps_hostInv hu hs
  exact hinv

theorem step_keeps_tailZero (hs : tailZero s) (h : step s = .next t) : tailZero t := by
  obtain ⟨u, hu, rfl⟩ := exec_of_step s h
  have htail : tailZero u := exec_keeps_tailZero hu hs
  exact htail

/-- Settles O47: the part that requests keep as well, and the stack's tail. -/
theorem everyStepKeepsTheInvariant : Obligations.EveryStepKeepsTheInvariant := by
  unfold Obligations.EveryStepKeepsTheInvariant
  rintro s t ⟨hmem, htail, hcm⟩ h
  obtain ⟨hmem', hcm'⟩ := step_keeps_hostInv ⟨hmem, hcm⟩ h
  exact ⟨hmem', step_keeps_tailZero htail h, hcm'⟩

/-- Settles O48: nothing is listed, every slot is 0, and 0 is legal for `CM`. -/
theorem resetSatisfiesTheInvariant : Obligations.ResetSatisfiesTheInvariant := by
  unfold Obligations.ResetSatisfiesTheInvariant
  exact ⟨State.reset_memoryWf, fun _ _ => Vector.getElem_replicate _, rfl⟩

end Sys2Proof.Machine
end

section
/-! PROOFS. 70_reset_and_hazards.md sections 1 and 2: the reset operation (R302, R305). 50_scheduler_and_host.md sections 2 to 4:
animate and tick (R223, R224), the test inputs (R231) and the ROM load (R236, R237). -/

namespace Sys2Proof.Machine

open Sys2Proof.Safety

variable (s : State)

/-! Reset. -/

theorem serve_reset : serve .reset s = .next (s.resetOp, .done) := rfl

theorem resetOp_eq : s.resetOp = { State.reset with rom := s.rom } := rfl

theorem resetOp_resetOp : s.resetOp.resetOp = s.resetOp := rfl

/-- Settles O49: every register, slot and cell of the reset state. -/
theorem resetLeavesEverythingZero : Obligations.ResetLeavesEverythingZero := by
  unfold Obligations.ResetLeavesEverythingZero
  refine ⟨rfl, rfl, rfl, rfl, fun r => ?reg, fun i => ?slot, rfl, rfl, rfl, fun _ _ _ => rfl, fun _ _ _ => rfl,
    fun _ => rfl, fun _ => rfl, rfl, rfl, rfl, rfl, by decide⟩
  case reg => exact Vector.getElem_replicate _
  case slot => exact Vector.getElem_replicate _

/-- Settles O50: reset writes every piece of state but ROM, so a second reset finds what it writes. -/
theorem resetIsIdempotent : Obligations.ResetIsIdempotent := by
  unfold Obligations.ResetIsIdempotent
  exact fun s => ⟨s.resetOp, serve_reset s, (serve_reset _).trans (by rw [resetOp_resetOp]), resetOp_eq s⟩

/-! Animate and tick. -/

variable {s} in
theorem serve_animate (h : s.commandAllowed = true) : serve .animate s = .next (s.setSched .animating, .done) :=
  if_pos h

variable {s} in
theorem serve_tick_ignored (h : s.sched ≠ .animating) (bp : List Addr) : serve (.tick bp) s = .next (s, .ignored) :=
  if_neg h

variable {s} in
/-- The tick while animating around its one `ExecuteOne`. -/
theorem serve_tick {t : State} (h : s.sched = .animating) (ht : step s = .next t) (bp : List Addr) :
    serve (.tick bp) s = .next (if breakpointHit bp t then t.setSched .stopped else t,
      .ticked (cost s.fetchOp) t.diag (breakpointHit bp t)) := by
  have htick : serve (.tick bp) s = tickCommand bp s := rfl
  rw [htick, tickCommand, if_pos h, executeOne_of_step s ht]

/-- Settles O52: the three commands; the tick's one `ExecuteOne` has a next state. -/
theorem tickIsAStepWithABreakpointTest : Obligations.TickIsAStepWithABreakpointTest := by
  unfold Obligations.TickIsAStepWithABreakpointTest
  refine fun s bp => ⟨fun h => ?animate, fun h => serve_tick_ignored h bp, fun h => ?tick⟩
  case animate => exact serve_animate (s.commandAllowed_iff.2 h)
  case tick =>
    obtain ⟨t, ht, -, -⟩ := step_advances_cyc s
    refine ⟨t, ht, ?_⟩
    rw [serve_tick h ht]
    by_cases hhit : breakpointHit bp t = true
    · rw [if_pos ((breakpointHit_iff t bp).1 hhit), hhit]
      rfl
    · rw [if_neg (mt (breakpointHit_iff t bp).2 hhit), Bool.eq_false_of_not_eq_true hhit]
      rfl

/-! Test inputs and ROM load. -/

/-- Settles O55: bit 0 of the value handed in is its remainder modulo 2. -/
theorem testInputsWriteTheirBit : Obligations.TestInputsWriteTheirBit := by
  unfold Obligations.TestInputsWriteTheirBit
  intro s v
  rw [← Nat.testBit_zero]
  exact ⟨rfl, rfl⟩

variable {s} in
theorem serve_romLoad_refused (h : s.active = true) (addr byte : Nat) :
    serve (.romLoad addr byte) s = .next (s, .refused) :=
  if_pos h

variable {s} in
theorem serve_romLoad (h : s.active = false) (addr byte : Nat) :
    serve (.romLoad addr byte) s = .next (s.writeRom (BitVec.ofNat 12 addr) (BitVec.ofNat 8 byte), .done) :=
  if_neg (Bool.eq_false_iff.1 h)

/-- Settles O54: the guard, and one write at the address modulo 4096. -/
theorem romLoadIsGuarded : Obligations.RomLoadIsGuarded := by
  unfold Obligations.RomLoadIsGuarded
  refine fun s addr byte => ⟨fun h => serve_romLoad_refused h addr byte,
    fun h => ⟨_, serve_romLoad h addr byte, ?written, fun k hk => ?others, rfl⟩⟩
  case written =>
    have hbyte : BitVec.ofNat 8 (byte % 256) = BitVec.ofNat 8 byte := by
      apply BitVec.eq_of_toNat_eq
      simp
    exact (Cells.read_write_same s.rom (addr % 4096) _).trans hbyte.symm
  case others => exact Cells.read_write_other s.rom _ hk

end Sys2Proof.Machine
end

section
/-! PROOFS. 50_scheduler_and_host.md section 2: what a request can do to the state, and what every request keeps
(60_exceptions.md R268, 10_state.md R42). -/

namespace Sys2Proof.Machine

open Sys2Proof.Safety

/-! Any number of `ExecuteOne`s. -/

/-- From `s`, some number of `ExecuteOne`s lead to `t`. -/
def Steps : State → State → Prop := Relation.ReflTransGen fun s t => step s = .next t

theorem steps_of_executeMany {s u : State} {n c : Nat} {ds : List Diagnostic}
    (h : executeMany n s = .next (u, c, ds)) : Steps s u := by
  induction n generalizing u c ds with
  | zero =>
    cases h
    exact .refl
  | succ n ih =>
    rw [executeMany] at h
    split at h
    case h_1 v c' ds' hv =>
      obtain ⟨t, ht, -⟩ := step_advances_cyc v
      rw [ht] at h
      cases h
      exact (ih hv).tail ht
    all_goals cases h

/-- What one step keeps, any number of steps keep. -/
theorem Steps.keep {p : State → Prop} (hstep : ∀ {s t}, p s → step s = .next t → p t) {s t : State} (h : Steps s t)
    (hs : p s) : p t := by
  induction h with
  | refl => exact hs
  | tail _ ht ih => exact hstep ih ht

/-! The effect of a request. -/

/-- What the state after a request can be: the commands of R222 to R225, the ports of R231 to R237. -/
inductive RequestEffect (s : State) : Request → State → Prop where
  /-- Refused, ignored, a getter, or the disassembly helper. -/
  | unchanged (req : Request) : RequestEffect s req s
  | reset : RequestEffect s .reset s.resetOp
  | animating : RequestEffect s .animate (s.setSched .animating)
  /-- A tick that hits no breakpoint. -/
  | ticked (bp : List Addr) {t : State} (hs : s.sched = .animating) (ht : step s = .next t) :
    RequestEffect s (.tick bp) t
  /-- A step, a run, or a tick that hits a breakpoint: `ExecuteOne`s under some `SCHED`, then `Stopped`. -/
  | stopped (req : Request) (q : Sched) {t : State} (ht : Steps (s.setSched q) t) :
    RequestEffect s req (t.setSched .stopped)
  | testIn (v : Nat) (b : Bool) : RequestEffect s (.testIn v) (s.setT b)
  | testModeIn (v : Nat) (b : Bool) : RequestEffect s (.testModeIn v) (s.setTm b)
  | romLoad (addr byte : Nat) (a : Addr) (v : Byte) : RequestEffect s (.romLoad addr byte) (s.writeRom a v)
  | poke (cell : CellName) (v : Nat) : RequestEffect s (.poke cell v) (s.poke cell v)

/-- Every request is answered with a next state, which is one of these. -/
theorem serve_effect (req : Request) (s : State) :
    ∃ t resp, serve req s = .next (t, resp) ∧ RequestEffect s req t := by
  cases req
  case reset => exact ⟨_, _, serve_reset s, .reset⟩
  case step =>
    by_cases hs : s.commandAllowed = true
    · obtain ⟨t, ht, -⟩ := step_advances_cyc (s.setSched .steppingOnce)
      exact ⟨_, _, stepCommand_of_step s hs ht, .stopped _ _ (.single ht)⟩
    · exact ⟨_, _, if_neg hs, .unchanged _⟩
  case animate =>
    by_cases hs : s.commandAllowed = true
    · exact ⟨_, _, serve_animate hs, .animating⟩
    · exact ⟨_, _, if_neg hs, .unchanged _⟩
  case tick bp =>
    by_cases hs : s.sched = .animating
    · obtain ⟨t, ht, -⟩ := step_advances_cyc s
      refine ⟨_, _, serve_tick hs ht bp, ?_⟩
      cases breakpointHit bp t
      · exact .ticked bp hs ht
      · exact .stopped _ s.sched (.single ht)
    · exact ⟨_, _, serve_tick_ignored hs bp, .unchanged _⟩
  case run budget bp =>
    by_cases hs : s.commandAllowed = true
    · obtain ⟨t, r, hrun, hreach, -⟩ :=
        runLoop_ends (budget := budget) (bp := bp) budget (Nat.le_add_left _ _) (.start (s := s.setSched .running))
      exact ⟨_, _, runCommand_of_runLoop hs hrun, .stopped _ _ (steps_of_executeMany hreach.executed)⟩
    · exact ⟨_, _, if_neg hs, .unchanged _⟩
  case testIn v => exact ⟨_, _, rfl, .testIn v _⟩
  case testModeIn v => exact ⟨_, _, rfl, .testModeIn v _⟩
  case romLoad addr byte =>
    cases hs : s.active
    · exact ⟨_, _, serve_romLoad hs addr byte, .romLoad ..⟩
    · exact ⟨_, _, serve_romLoad_refused hs addr byte, .unchanged _⟩
  case peek cell => exact ⟨_, _, serve_peek s cell, .unchanged _⟩
  case poke cell v =>
    by_cases hcell : cell.inRange = true ∧ cell.writable = true
    · exact ⟨_, _, serve_poke s hcell.1 hcell.2 v, .poke cell v⟩
    · exact ⟨_, _, serve_poke_refused s (by simpa [imp_iff_not_or] using hcell) v, .unchanged _⟩
  case disasm op b2 => exact ⟨_, _, serve_disasm s op b2, .unchanged _⟩

/-- No setter writes `CM`, `ERR`, `CYC`, `SCHED` or `ACTIVE` (R233). -/
theorem poke_frame (s : State) (cell : CellName) (v : Nat) :
    (s.poke cell v).cm = s.cm ∧ (s.poke cell v).err = s.err ∧ (s.poke cell v).cyc = s.cyc
      ∧ (s.poke cell v).sched = s.sched ∧ (s.poke cell v).active = s.active := by
  cases cell <;> exact ⟨rfl, rfl, rfl, rfl, rfl⟩

/-! The error state (R268, R301). -/

/-- No error bit, count or `ACTIVE` of `s` is taken back in `t` (R42 I4, I5). -/
structure KeepsErrorState (s t : State) : Prop where
  err : ∀ k, s.err.bit k = true → t.err.bit k = true
  cyc : s.cyc ≤ t.cyc
  active : s.active = true → t.active = true

variable {s t u : State}

theorem KeepsErrorState.of_eq (herr : t.err = s.err) (hcyc : t.cyc = s.cyc) (hactive : t.active = s.active) :
    KeepsErrorState s t where
  err _ hk := herr ▸ hk
  cyc := hcyc.ge
  active h := hactive.trans h

theorem KeepsErrorState.trans (h : KeepsErrorState s t) (h' : KeepsErrorState t u) : KeepsErrorState s u where
  err k hk := h'.err k (h.err k hk)
  cyc := h.cyc.trans h'.cyc
  active ha := h'.active (h.active ha)

/-- A step sets bits, adds its cost and sets `ACTIVE`. -/
theorem step_keepsErrorState (h : step s = .next t) : KeepsErrorState s t := by
  obtain ⟨hcyc, hactive, -⟩ := step_frame s h
  obtain ⟨t', ht', hbits⟩ := step_err_bit s
  obtain rfl : t = t' := Host.Outcome.next.inj (h.symm.trans ht')
  exact { err := fun k hk => by simp [hbits, hk], cyc := hcyc ▸ Nat.le_add_right _ _, active := fun _ => hactive }

theorem Steps.keepsErrorState (h : Steps s t) : KeepsErrorState s t :=
  h.keep (p := KeepsErrorState s) (fun hs ht => hs.trans (step_keepsErrorState ht)) (.of_eq rfl rfl rfl)

/-- Settles O59: of the effects of a request, only the reset's takes anything back. -/
theorem onlyResetClearsTheErrorState : Obligations.OnlyResetClearsTheErrorState := by
  unfold Obligations.OnlyResetClearsTheErrorState
  intro req s
  obtain ⟨t, resp, hserve, heffect⟩ := serve_effect req s
  refine ⟨t, resp, hserve, fun hreq => ?_⟩
  suffices h : KeepsErrorState s t from ⟨h.err, h.cyc, h.active⟩
  cases heffect
  case reset => exact absurd rfl hreq
  case ticked bp hs ht => exact step_keepsErrorState ht
  case stopped q u hu =>
    obtain ⟨herr, hcyc, hactive⟩ := hu.keepsErrorState
    exact ⟨herr, hcyc, hactive⟩
  case poke cell v =>
    obtain ⟨-, herr, hcyc, -, hactive⟩ := poke_frame s cell v
    exact .of_eq herr hcyc hactive
  all_goals exact .of_eq rfl rfl rfl

/-! The host's invariant (R42, R220). -/

theorem poke_keeps_memoryWf (h : s.memoryWf = true) (cell : CellName) (v : Nat) : (s.poke cell v).memoryWf = true := by
  cases cell
  case ram => exact s.writeChar_memoryWf _ _ _ _ h
  case status => exact s.writeStatus_memoryWf _ _ _ _ h
  case port => exact s.writePort_memoryWf _ _ h
  all_goals exact h

theorem resetOp_hostInv (h : s.memoryWf = true) : HostInv s.resetOp :=
  ⟨(State.memoryWf_iff _).2 ⟨((State.memoryWf_iff s).1 h).1, rfl, rfl, rfl⟩, rfl⟩

theorem RequestEffect.hostInv {req : Request} (h : RequestEffect s req t) (hs : HostInv s) : HostInv t := by
  obtain ⟨hmem, hcm⟩ := hs
  cases h
  case reset => exact resetOp_hostInv hmem
  case ticked bp hsched ht => exact step_keeps_hostInv ⟨hmem, hcm⟩ ht
  case stopped q u hu => exact hu.keep step_keeps_hostInv ⟨hmem, hcm⟩
  case romLoad addr byte a v => exact ⟨s.writeRom_memoryWf a v hmem, hcm⟩
  case poke cell v => exact ⟨poke_keeps_memoryWf hmem cell v, by rwa [cmLegal, (poke_frame s cell v).1]⟩
  all_goals exact ⟨hmem, hcm⟩

/-- Between requests the host sees `Stopped` or `Animating` alone (R220). -/
theorem RequestEffect.sched {req : Request} (h : RequestEffect s req t)
    (hs : s.sched = .stopped ∨ s.sched = .animating) : t.sched = .stopped ∨ t.sched = .animating := by
  cases h
  case reset | stopped => exact .inl rfl
  case animating => exact .inr rfl
  case ticked bp hsched ht =>
    obtain ⟨-, -, hstep, -⟩ := step_frame s ht
    exact .inr (hstep.trans hsched)
  case poke cell v =>
    obtain ⟨-, -, -, hpoke, -⟩ := poke_frame s cell v
    rwa [hpoke]
  all_goals exact hs

/-- Settles O60: the invariant and `SCHED` after each effect of a request. -/
theorem everyRequestKeepsTheHostInvariant : Obligations.EveryRequestKeepsTheHostInvariant := by
  unfold Obligations.EveryRequestKeepsTheHostInvariant
  intro req s t resp hinv hsched h
  obtain ⟨t', resp', hserve, heffect⟩ := serve_effect req s
  obtain ⟨rfl, rfl⟩ := Prod.mk.inj (Host.Outcome.next.inj (h.symm.trans hserve))
  exact ⟨heffect.hostInv hinv, heffect.sched hsched⟩

end Sys2Proof.Machine
end
